-- ==== Sys2Proof/Word.lean ====
section
/-! DEFINITION. The words of the block: bytes of the frame, 16-bit registers, 32-bit energy values and
4-bit select codes (R7, R65). -/

namespace Sys2Proof

/-- A byte lane of FRAME (R7, R21). -/
abbrev Byte := BitVec 8

/-- The value of one 16-bit register (R7, R23). -/
abbrev Word := BitVec 16

/-- The value of a 32-bit energy field (R7, R101). -/
abbrev DWord := BitVec 32

/-- The 4-bit select code SEL (R65). -/
abbrev Sel := BitVec 4

end Sys2Proof
end

