-- ==== Sys2Proof/Config.lean ====
section
/-! DEFINITION. What an implementation of the block fixes (R6): the fixed dimensions, the build-time
parameters SIGN_MODE and OUT_REPR, and the constants the spec leaves open, which have no body. -/

namespace Sys2Proof

/-- `FRAME_BYTES` (R6): the minimum frame length, and the number of byte lanes of FRAME (R21). -/
@[simp] abbrev Config.frameBytes : Nat := 40

/-- `CH_STRIDE` (R6, R61): what is added to a channel-1 byte offset to give the channel-2 one. -/
@[simp] abbrev Config.chStride : Nat := 20

/-- `N_REG` (R6): the registers of a frame. -/
@[simp] abbrev Config.nReg : Nat := 20

/-- `SIGN_MODE` (R6, R102): the treatment of sign-register values other than 0 and 1. -/
inductive SignMode where
  /-- The default: a register of 0 is positive, every other value negative. -/
  | zeroTest
  /-- Bit 0 alone decides. -/
  | bit0
  /-- The source's formula `(1 - s) * m - s * m`. -/
  | sourceFormula
  deriving DecidableEq, Repr

/-- `OUT_REPR` (R6, R103): the number format of the output fields. -/
inductive OutRepr where
  /-- The default: the exact rational, carried as (numerator, denominator). -/
  | exact
  /-- Any other format: the field is `conv(n, D)`, of which nothing is assumed (D4). -/
  | other
  deriving DecidableEq, Repr

/-- The parameters that are fixed when the block is built (R28). -/
structure Build where
  signMode : SignMode
  outRepr : OutRepr
  deriving DecidableEq, Repr

/-- The defaults of R6. -/
def Build.default : Build := { signMode := .zeroTest, outRepr := .exact }

/-- `conv(n, D)` of R103, the field under a number format other than EXACT, as the code of that format.
It depends on `n` and `D` alone and nothing else is assumed of it (D4). Free value, log entry 7. -/
opaque Config.conv : Int → Nat → Nat

/-- `LATENCY` (R6, R178): OPEN; no rule depends on it and no definition reads it. Log entry 8. -/
opaque Config.latency : Nat

/-- `DEV_ID` (R6, D17): OPEN, outside the block; no definition reads it. Log entry 8. -/
opaque Config.devId : Nat

/-- `BASE_REG` (R6, D17): OPEN, outside the block; no definition reads it. Log entry 8. -/
opaque Config.baseReg : Nat

end Sys2Proof
end

