-- ==== Sys2Proof/Syntax.lean ====
section
/-! DEFINITION. The fourteen field operations of spec/opcode_table.json, and the names their schema
constants are written in (R60 to R65). An operation has no operands of its own: every operand is a
constant of the frame schema (R63). -/

namespace Sys2Proof

/-- The field operations: one constructor per row of spec/opcode_table.json (R2, R120 to R133). -/
inductive Instr where
  | ch1Voltage
  | ch1Current
  | ch1Power
  | ch1Penergy
  | ch1Nenergy
  | ch1Pf
  | ch1Freq
  | ch2Voltage
  | ch2Current
  | ch2Power
  | ch2Penergy
  | ch2Nenergy
  | ch2Pf
  | ch2Freq
  deriving DecidableEq, Repr

/-- The two channel lanes (R134). -/
inductive Channel where
  | ch1
  | ch2
  deriving DecidableEq, Repr

/-- The seven output fields of a channel, in the order of their field index (R60). -/
inductive FieldName where
  | voltage
  | current
  | activePower
  | positiveEnergy
  | negativeEnergy
  | powerFactor
  | frequency
  deriving DecidableEq, Repr

/-- The units of the output fields (R25, R60). -/
inductive MeasUnit where
  | volt
  | ampere
  | watt
  | kilowattHour
  | dimensionless
  | hertz
  deriving DecidableEq, Repr

/-- A field's format with the byte offsets it reads at (R62). -/
inductive Format where
  /-- Unsigned 16-bit at byte offset `off`. -/
  | u16s (off : Nat)
  /-- Unsigned 32-bit, low word first, at byte offset `off`. -/
  | u32lw (off : Nat)
  /-- Sign-magnitude pair: the magnitude register at `mag`, the sign register at `sign`. -/
  | sm16 (mag sign : Nat)
  deriving DecidableEq, Repr

/-- The schema constants of one field operation (R60, R61, R63). -/
structure Schema where
  channel : Channel
  field : FieldName
  format : Format
  /-- The denominator D of R60. -/
  den : Nat
  unit : MeasUnit
  deriving DecidableEq, Repr

/-- The two outcomes STATUS reports (R24). -/
inductive Status where
  | ok
  | tooShort
  deriving DecidableEq, Repr

end Sys2Proof
end

