-- ==== Sys2Proof/WellFormed.lean ====
section
/-! DEFINITION. Well-formedness: which schema constants the spec allows (R43, R46, R100 to R103), and
which select codes name a field operation (R65, R66). -/

namespace Sys2Proof

/-- The first byte offset of a channel's half of the frame (R46, R61). -/
def Channel.base : Channel → Nat
  | .ch1 => 0
  | .ch2 => Config.chStride

/-- `n` bytes at byte offset `off` lie in the channel's own half of the frame (R46). -/
def Channel.holds (ch : Channel) (off n : Nat) : Bool :=
  decide (ch.base ≤ off) && decide (off + n ≤ ch.base + Config.chStride)

/-- A register operand: two bytes, aligned to a register (R43, R100), in the channel's half. -/
def Channel.holdsReg (ch : Channel) (off : Nat) : Bool :=
  decide (off % 2 = 0) && ch.holds off 2

/-- The offsets of a format obey R43, R62, R100 and R101. -/
def Format.wf (ch : Channel) : Format → Bool
  | .u16s off => ch.holdsReg off
  | .u32lw off => decide (off % 4 = 0) && ch.holds off 4
  | .sm16 mag sign => ch.holdsReg mag && decide (sign = ch.base + 6)

/-- The denominator is one of R103. -/
def denWf (den : Nat) : Bool := decide (den = 1) || decide (den = 100) || decide (den = 1000)

/-- The schema constants obey the spec's constraints. -/
def Schema.wf (c : Schema) : Bool := c.format.wf c.channel && denWf c.den

/-- A select code is well formed when it is not reserved (R66). -/
def Sel.wf (sel : Sel) : Bool := decide (sel ≠ 0x7#4) && decide (sel ≠ 0xF#4)

end Sys2Proof
end

