-- ==== Sys2Proof/Decode.lean ====
section
/-! DEFINITION. The select-code decoder and encoder (R65, R66), the frame schema of each field operation
(R60, R61), the bit encoding of STATUS (R67), and the host's entry point to the decoder. -/

namespace Sys2Proof

/-- Why a code names no field operation. -/
inductive Reject where
  /-- The codes 0x7 and 0xF (R66). -/
  | reserved (sel : Sel)
  /-- A byte whose upper four bits are not 0: SEL is 4 bits wide (R65). -/
  | notASelectCode (b : Byte)
  deriving DecidableEq, Repr

/-- The select-code table of R65. -/
def decode (sel : Sel) : Except Reject Instr :=
  if sel = 0x0#4 then .ok .ch1Voltage
  else if sel = 0x1#4 then .ok .ch1Current
  else if sel = 0x2#4 then .ok .ch1Power
  else if sel = 0x3#4 then .ok .ch1Penergy
  else if sel = 0x4#4 then .ok .ch1Nenergy
  else if sel = 0x5#4 then .ok .ch1Pf
  else if sel = 0x6#4 then .ok .ch1Freq
  else if sel = 0x8#4 then .ok .ch2Voltage
  else if sel = 0x9#4 then .ok .ch2Current
  else if sel = 0xA#4 then .ok .ch2Power
  else if sel = 0xB#4 then .ok .ch2Penergy
  else if sel = 0xC#4 then .ok .ch2Nenergy
  else if sel = 0xD#4 then .ok .ch2Pf
  else if sel = 0xE#4 then .ok .ch2Freq
  else .error (.reserved sel)

/-- The same on a byte that holds SEL in its low four bits. -/
def decodeByte (b : Byte) : Except Reject Instr :=
  if b.toNat < 16 then decode (b.setWidth 4) else .error (.notASelectCode b)

/-- Any bytes: the first byte is a select code, the rest is handed back; no byte is no code. -/
def decodeBytes : List Byte → Option (Except Reject Instr × List Byte)
  | [] => none
  | b :: rest => some (decodeByte b, rest)

/-- SEL[3] of a channel (R65). -/
def Channel.bit : Channel → BitVec 1
  | .ch1 => 0#1
  | .ch2 => 1#1

/-- SEL[2:0] of a field: its field index (R60, R65). -/
def FieldName.index : FieldName → BitVec 3
  | .voltage => 0#3
  | .current => 1#3
  | .activePower => 2#3
  | .positiveEnergy => 3#3
  | .negativeEnergy => 4#3
  | .powerFactor => 5#3
  | .frequency => 6#3

/-- The channel a select code picks: 0 in SEL[3] is ch1, 1 is ch2 (R65). -/
def Sel.channel (sel : Sel) : Channel := if sel.extractLsb' 3 1 = 0#1 then .ch1 else .ch2

/-- The field a select code picks by SEL[2:0]; the index 7 is no field (R60, R66). -/
def Sel.field (sel : Sel) : Option FieldName :=
  let f := sel.extractLsb' 0 3
  if f = 0#3 then some .voltage
  else if f = 1#3 then some .current
  else if f = 2#3 then some .activePower
  else if f = 3#3 then some .positiveEnergy
  else if f = 4#3 then some .negativeEnergy
  else if f = 5#3 then some .powerFactor
  else if f = 6#3 then some .frequency
  else none

/-- The schema constants of each field operation (R60, R61; opcode_table.json's source_fields). -/
def Instr.schema : Instr → Schema
  | .ch1Voltage => ⟨.ch1, .voltage, .u16s 0, 100, .volt⟩
  | .ch1Current => ⟨.ch1, .current, .sm16 2 6, 100, .ampere⟩
  | .ch1Power => ⟨.ch1, .activePower, .sm16 4 6, 1, .watt⟩
  | .ch1Penergy => ⟨.ch1, .positiveEnergy, .u32lw 8, 1000, .kilowattHour⟩
  | .ch1Nenergy => ⟨.ch1, .negativeEnergy, .u32lw 12, 1000, .kilowattHour⟩
  | .ch1Pf => ⟨.ch1, .powerFactor, .u16s 16, 1000, .dimensionless⟩
  | .ch1Freq => ⟨.ch1, .frequency, .u16s 18, 100, .hertz⟩
  | .ch2Voltage => ⟨.ch2, .voltage, .u16s 20, 100, .volt⟩
  | .ch2Current => ⟨.ch2, .current, .sm16 22 26, 100, .ampere⟩
  | .ch2Power => ⟨.ch2, .activePower, .sm16 24 26, 1, .watt⟩
  | .ch2Penergy => ⟨.ch2, .positiveEnergy, .u32lw 28, 1000, .kilowattHour⟩
  | .ch2Nenergy => ⟨.ch2, .negativeEnergy, .u32lw 32, 1000, .kilowattHour⟩
  | .ch2Pf => ⟨.ch2, .powerFactor, .u16s 36, 1000, .dimensionless⟩
  | .ch2Freq => ⟨.ch2, .frequency, .u16s 38, 100, .hertz⟩

/-- The channel lane an operation belongs to. -/
def Instr.channel (i : Instr) : Channel := i.schema.channel

/-- The output field an operation writes. -/
def Instr.field (i : Instr) : FieldName := i.schema.field

/-- An operation is well formed when its schema constants are. -/
def Instr.wf (i : Instr) : Bool := i.schema.wf

/-- The select code of an operation: the channel bit above the field index (R65). -/
def encode (i : Instr) : Sel := i.channel.bit ++ i.field.index

/-- The codes of all field operations, in the order of the offset table: the order DECODE's pseudocode
is written in (R80). Any order gives the same record (R88). Log entry 4. -/
def selectCodes : List Sel :=
  [0x0#4, 0x1#4, 0x2#4, 0x3#4, 0x4#4, 0x5#4, 0x6#4,
   0x8#4, 0x9#4, 0xA#4, 0xB#4, 0xC#4, 0xD#4, 0xE#4]

/-- STATUS as its bit (R67). -/
def Status.bit : Status → BitVec 1
  | .ok => 0#1
  | .tooShort => 1#1

/-- The STATUS a bit stands for (R67). -/
def Status.ofBit (b : BitVec 1) : Status := if b = 0#1 then .ok else .tooShort

/-- The operation the decoder reads from the `nbits` bits `w` of a table row: SEL in bits 3..0, nothing
above. -/
def decodeTableWord (nbits w : Nat) : Option Instr :=
  if w % 2 ^ nbits < 256 then (decodeByte (BitVec.ofNat 8 (w % 2 ^ nbits))).toOption else none

end Sys2Proof
end

