-- ==== Sys2Proof/Machine/State.lean ====
section
/-! DEFINITION. The state of the machine as plain data: the input ports FRAME and LEN, the output ports
STATUS and REC, the record of the transaction in progress, the build-time parameters, and the model's
own fields for what the host does next and what a READ answered (R20 to R29). -/

namespace Sys2Proof.Machine

/-- The bytes the host presents on FRAME (R21, R40): (lane, byte) pairs, lanes strictly rising and below
40. A lane that is not listed carries no byte of the buffer (R22) and has no value. Log entry 1. -/
abbrev Frame := List Host.Cell

/-- The value of one output field (R10, R103). -/
inductive FieldValue where
  /-- Under EXACT: the numerator and the constant denominator; it stands for `num / den` exactly. -/
  | exact (num : Int) (den : Nat)
  /-- Under any other OUT_REPR: the code `conv(n, D)` of that format. -/
  | converted (code : Nat)
  deriving DecidableEq, Repr

/-- The seven fields of one channel: the source's ChannelMeasurement (R25). -/
structure ChannelMeasurement (α : Type) where
  voltage : α
  current : α
  activePower : α
  positiveEnergy : α
  negativeEnergy : α
  powerFactor : α
  frequency : α
  deriving DecidableEq, Repr

/-- Both channels: the source's TelemetryRecord (R25). -/
structure TelemetryRecord (α : Type) where
  ch1 : ChannelMeasurement α
  ch2 : ChannelMeasurement α
  deriving DecidableEq, Repr

/-- What a READ answers (R85). A refusal is recorded as an answer without a value, and the machine goes
on. Log entry 6. -/
inductive ReadResponse where
  | value (v : FieldValue)
  /-- SEL is 0x7 or 0xF (R66). -/
  | reservedSelect
  /-- No DECODE has completed, or the last one was TOO_SHORT (R85, R171). -/
  | noRecord
  deriving DecidableEq, Repr

/-- What the host can do to the block (R176), one constructor per statement of R69 that is no
pseudo-statement. -/
inductive HostCmd where
  /-- Present a buffer of any length. -/
  | frame (bytes : List Byte)
  /-- Start one DECODE transaction. -/
  | decode
  /-- READ a field by its select code. -/
  | read (sel : Sel)
  /-- Test assertion on STATUS: no effect on the block. -/
  | expectStatus (st : Status)
  /-- Test assertion on one field's rational value: no effect on the block. -/
  | expectField (i : Instr) (num : Int) (den : Nat)
  deriving DecidableEq, Repr

/-- Why the machine stops with a fault. -/
inductive Fault where
  /-- Raised by a field operation that reads a lane carrying no byte of the buffer, though LEN is 40 or
  more. Safe: the length check and the host's presenting of a frame make it unreachable (R22, R81, I8). -/
  | absentByte
  deriving DecidableEq, Repr

/-- Why a step has no meaning. -/
inductive Refusal where
  /-- An instruction the dispatcher has no meaning for; no arm answers it. Safe. -/
  | notModelled (mnemonic : String)
  /-- Raised by the step when a reserved code (0x7, 0xF) stands among the codes of the running
  transaction: such a code names no field operation (R66). Safe: a DECODE never places one. -/
  | reservedSelect
  deriving DecidableEq, Repr

structure State where
  /-- The build-time parameters (R6, R28); no step changes them. Log entry 3. -/
  build : Build
  /-- FRAME (R21). -/
  frame : Frame
  /-- LEN (R22). -/
  len : Nat
  /-- STATUS (R24), or no value (R171, R175). -/
  status : Option Status
  /-- REC (R25), or no value (R25, R171, R175). -/
  record : Option (TelemetryRecord FieldValue)
  /-- The record of the current transaction (R9): the fields written so far. -/
  out : TelemetryRecord (Option FieldValue)
  /-- The model's own: the field operations the running DECODE has not evaluated yet. Log entry 4. -/
  todo : List Sel
  /-- The model's own: what the host does next. Log entry 5. -/
  script : List HostCmd
  /-- The model's own: what the last READ answered. Log entry 6. -/
  response : Option ReadResponse
  deriving DecidableEq, Repr

/-- A channel with no field written. -/
def ChannelMeasurement.unwritten : ChannelMeasurement (Option FieldValue) :=
  ⟨none, none, none, none, none, none, none⟩

/-- A record with no field written. -/
def TelemetryRecord.unwritten : TelemetryRecord (Option FieldValue) :=
  ⟨ChannelMeasurement.unwritten, ChannelMeasurement.unwritten⟩

/-- The block before its first DECODE (R170, R171): STATUS and REC have no value, nothing is presented
on the inputs (log entries 1 and 2), no transaction is running and the host does nothing. -/
def State.reset : State where
  build := Build.default
  frame := []
  len := 0
  status := none
  record := none
  out := TelemetryRecord.unwritten
  todo := []
  script := []
  response := none

end Sys2Proof.Machine
end

