-- ==== Sys2Proof/Machine/Flags.lean ====
section
/-! DEFINITION. The block has no flags or condition codes (R27). Its one status is STATUS, and the one
condition it computes is the length check `LEN ≥ 40` (R22, R81). -/

namespace Sys2Proof.Machine

/-- `FULL` of R22: the only thing the block reads of LEN. -/
def State.full (s : State) : Bool := decide (Config.frameBytes ≤ s.len)

/-- The outcome the length check decides (R81). -/
def State.checkedStatus (s : State) : Status := if s.full then .ok else .tooShort

end Sys2Proof.Machine
end

