-- ==== Sys2Proof/Machine/Ops.lean ====
section
/-! DEFINITION. The named operations over the state: presenting and reading the frame, writing a field
of the current transaction's record, starting a DECODE, reporting TooShort, completing a transaction,
and the READ selector. -/

namespace Sys2Proof.Machine

/-! ### The frame -/

/-- `FRAME[i]` (R9, R40): the byte on lane `i`, none where the lane carries no byte of the buffer. -/
def Frame.read : Frame → Nat → Option Byte
  | [], _ => none
  | (k, b) :: rest, i => if k = i then some b else Frame.read rest i

/-- The lanes from `k` on that carry the given bytes. -/
def Frame.ofBytesAt : Nat → List Byte → Frame
  | _, [] => []
  | k, b :: rest => (k, b) :: Frame.ofBytesAt (k + 1) rest

/-- The frame that presents a buffer: its first 40 bytes, lane `i` carrying byte `i` (R21, R69). -/
def Frame.ofBuffer (bytes : List Byte) : Frame :=
  Frame.ofBytesAt 0 (bytes.take Config.frameBytes)

/-- Lanes strictly rising from at least `k`, all below 40. -/
def Frame.risesFrom : Nat → Frame → Bool
  | _, [] => true
  | k, (a, _) :: rest =>
      decide (k ≤ a) && decide (a < Config.frameBytes) && Frame.risesFrom (a + 1) rest

/-- The canonical form of a frame. An unlisted lane has no value, so every byte may be listed. -/
def Frame.wf (m : Frame) : Bool := Frame.risesFrom 0 m

/-- All forty lanes carry a byte. -/
def Frame.complete (m : Frame) : Bool :=
  (List.range Config.frameBytes).all fun i => (m.read i).isSome

/-- The host presents a buffer (R69 `FRAME`, R176): FRAME and LEN change, nothing else. -/
def State.present (bytes : List Byte) (s : State) : State :=
  { s with frame := Frame.ofBuffer bytes, len := bytes.length }

/-! ### The record of the current transaction -/

/-- One field of a channel. -/
def ChannelMeasurement.get {α : Type} (c : ChannelMeasurement α) : FieldName → α
  | .voltage => c.voltage
  | .current => c.current
  | .activePower => c.activePower
  | .positiveEnergy => c.positiveEnergy
  | .negativeEnergy => c.negativeEnergy
  | .powerFactor => c.powerFactor
  | .frequency => c.frequency

/-- A channel with one field replaced. -/
def ChannelMeasurement.set {α : Type} (c : ChannelMeasurement α) (f : FieldName) (v : α) :
    ChannelMeasurement α :=
  match f with
  | .voltage => { c with voltage := v }
  | .current => { c with current := v }
  | .activePower => { c with activePower := v }
  | .positiveEnergy => { c with positiveEnergy := v }
  | .negativeEnergy => { c with negativeEnergy := v }
  | .powerFactor => { c with powerFactor := v }
  | .frequency => { c with frequency := v }

/-- One channel of a record. -/
def TelemetryRecord.lane {α : Type} (r : TelemetryRecord α) : Channel → ChannelMeasurement α
  | .ch1 => r.ch1
  | .ch2 => r.ch2

/-- One field of a record. -/
def TelemetryRecord.get {α : Type} (r : TelemetryRecord α) (ch : Channel) (f : FieldName) : α :=
  (r.lane ch).get f

/-- A record with one field replaced. -/
def TelemetryRecord.set {α : Type} (r : TelemetryRecord α) (ch : Channel) (f : FieldName) (v : α) :
    TelemetryRecord α :=
  match ch with
  | .ch1 => { r with ch1 := r.ch1.set f v }
  | .ch2 => { r with ch2 := r.ch2.set f v }

/-- A channel all of whose fields have been written. -/
def ChannelMeasurement.complete :
    ChannelMeasurement (Option FieldValue) → Option (ChannelMeasurement FieldValue)
  | ⟨some v, some c, some p, some pe, some ne, some pf, some f⟩ => some ⟨v, c, p, pe, ne, pf, f⟩
  | _ => none

/-- A record all of whose fields have been written: the record is all or nothing (R82). -/
def TelemetryRecord.complete (r : TelemetryRecord (Option FieldValue)) :
    Option (TelemetryRecord FieldValue) :=
  match r.ch1.complete, r.ch2.complete with
  | some a, some b => some ⟨a, b⟩
  | _, _ => none

/-- `out.<ch>.<field> <- v` (R9): write a field of the current transaction's record. -/
def State.writeOut (ch : Channel) (f : FieldName) (v : FieldValue) (s : State) : State :=
  { s with out := s.out.set ch f (some v) }

/-! ### The transaction -/

/-- `raise TooShort()` (R9, R150, R154): the block's one error. It is reported, not trapped: STATUS says
TOO_SHORT, REC has no value, the transaction ends; nothing is saved, there is no vector and no mode,
and there is no return from it (R155). -/
def State.raiseTooShort (s : State) : State :=
  { s with status := some .tooShort, record := none, out := .unwritten, todo := [] }

/-- The start of a DECODE (R80, R81): the length check, before any field is read. When it passes, the
field operations stand to be evaluated, and until they are STATUS and REC have no value (R175). -/
def State.startDecode (s : State) : State :=
  match s.checkedStatus with
  | .tooShort => s.raiseTooShort
  | .ok => { s with status := none, record := none, out := .unwritten, todo := selectCodes }

/-- The end of a DECODE (R80, R82): STATUS says OK and REC is the complete record. A record that lacks a
field is never given out (R82); that STATUS then has no value either is the model's choice, in states no run
reaches. DESIGN CHOICE, log entry 4. -/
def State.commit (s : State) : State :=
  match s.out.complete with
  | some r => { s with status := some .ok, record := some r, out := .unwritten, todo := [] }
  | none => { s with status := none, record := none, out := .unwritten, todo := [] }

/-- After a field operation: the next one stands first, or the transaction ends. -/
def State.advance (s : State) : State :=
  match s.todo with
  | [] => s
  | [_] => s.commit
  | _ :: rest => { s with todo := rest }

/-- What a field operation does with the value its rule gives (R120 to R133): it writes its output field
and nothing else. With `LEN < 40` no field operation is evaluated at all (R153), so nothing is written
(R81). `none` is a lane that carries no byte of the buffer. -/
def fieldOp (ch : Channel) (f : FieldName) (v : Option FieldValue) (s : State) :
    Host.Outcome State Fault Refusal :=
  if s.full then
    match v with
    | some x => .next (s.writeOut ch f x)
    | none => .fault .absentByte
  else .next s

/-! ### The READ port -/

/-- READ (R85): the checks in the order of its pseudocode, then the selector over REC. -/
def State.readPort (s : State) (sel : Sel) : ReadResponse :=
  if sel = 0x7#4 ∨ sel = 0xF#4 then .reservedSelect
  else match s.status, s.record, sel.field with
    | some .ok, some r, some f => .value (r.get sel.channel f)
    | _, _, _ => .noRecord

/-- A READ leaves its answer with the host and changes nothing else (R85). -/
def State.answerRead (sel : Sel) (s : State) : State :=
  { s with response := some (s.readPort sel) }

/-- The script with its first statement taken. -/
def State.nextStatement (s : State) (rest : List HostCmd) : State := { s with script := rest }

/-- One host action on the block (R69, R176); an EXPECT has no effect. -/
def State.hostAction (cmd : HostCmd) (s : State) : State :=
  match cmd with
  | .frame bytes => s.present bytes
  | .decode => s.startDecode
  | .read sel => s.answerRead sel
  | .expectStatus _ => s
  | .expectField _ _ _ => s

/-! ### Placing a field operation -/

/-- The state with a complete frame: as it is where its forty lanes carry bytes and LEN says so, else
with forty zero bytes presented. -/
def State.withFrame (s : State) : State :=
  if s.full && s.frame.complete then s
  else s.present (List.replicate Config.frameBytes 0#8)

/-- A running transaction whose next field operation is `sel`, all fourteen of DECODE after it.
Log entry 10. -/
def State.placeCode (s : State) (sel : Sel) : State :=
  { s.withFrame with status := none, record := none, todo := sel :: selectCodes }

end Sys2Proof.Machine
end

