-- ==== Sys2Proof/Machine/Operands.lean ====
section
/-! DEFINITION. The extraction primitives U16, U32LW, apply_sign and scale (R100 to R103), the three field
formats built from them (R62), the register view (R23), and the widths of the output numerators (R25). -/

namespace Sys2Proof.Machine

/-! ### Assembly -/

/-- `U16(i)` (R41, R100): big-endian, unsigned. -/
def u16 (m : Frame) (i : Nat) : Option Word :=
  match m.read i, m.read (i + 1) with
  | some hi, some lo => some (hi.setWidth 16 <<< 8 ||| lo.setWidth 16)
  | _, _ => none

/-- `U32LW(i)` (R42, R101): the low word is stored first. -/
def u32lw (m : Frame) (i : Nat) : Option DWord :=
  match u16 m i, u16 m (i + 2) with
  | some lo, some hi => some (hi.setWidth 32 <<< 16 ||| lo.setWidth 32)
  | _, _ => none

/-- `MemRead(addr, n)` (R9): the big-endian value of the `n` bytes from `addr` on. -/
def memRead (m : Frame) (addr : Nat) : Nat → Option Nat
  | 0 => some 0
  | n + 1 =>
    match memRead m addr n, m.read (addr + n) with
    | some hi, some lo => some (hi * 256 + lo.toNat)
    | _, _ => none

/-- `R[k]` (R23): register `k` of the frame, at byte offset `2k`; there are twenty. -/
def Frame.reg (m : Frame) (k : Fin Config.nReg) : Option Word := u16 m (2 * k.val)

/-! ### Sign and scale -/

/-- `apply_sign(m, s)` (R102), in exact integers. -/
def applySign (mode : SignMode) (m s : Word) : Int :=
  match mode with
  | .zeroTest => if s = 0#16 then (m.toNat : Int) else -(m.toNat : Int)
  | .bit0 => if s.getLsbD 0 then -(m.toNat : Int) else (m.toNat : Int)
  | .sourceFormula => (1 - (s.toNat : Int)) * (m.toNat : Int) - (s.toNat : Int) * (m.toNat : Int)

/-- `scale(n, D)` (R103): the pair (n, D) under EXACT, `conv(n, D)` otherwise. No clamp, no rounding. -/
def scale (r : OutRepr) (n : Int) (den : Nat) : FieldValue :=
  match r with
  | .exact => .exact n den
  | .other => .converted (Config.conv n den)

/-- The exact rational a field stands for (R10); under another OUT_REPR the spec gives none. A denominator
of 0 makes no rational: the spec's denominators are 1, 100 and 1000 (R103), so only an EXPECT can name one,
and that it then has no value is the model's choice. DESIGN CHOICE, log entry 15. -/
def FieldValue.value : FieldValue → Option Rat
  | .exact n d => if d = 0 then none else some ((n : Rat) / (d : Rat))
  | .converted _ => none

/-- Two fields are equal when their rationals are (R10); what has no rational equals nothing, not even
itself. DESIGN CHOICE, log entries 7 and 15. -/
def FieldValue.same (a b : FieldValue) : Bool :=
  match a.value, b.value with
  | some x, some y => decide (x = y)
  | _, _ => false

/-! ### The three formats -/

/-- Format U16S (R62). -/
def valU16S (b : Build) (m : Frame) (off den : Nat) : Option FieldValue :=
  match u16 m off with
  | some v => some (scale b.outRepr (v.toNat : Int) den)
  | none => none

/-- Format U32LW (R62). -/
def valU32LW (b : Build) (m : Frame) (off den : Nat) : Option FieldValue :=
  match u32lw m off with
  | some v => some (scale b.outRepr (v.toNat : Int) den)
  | none => none

/-- Format SM16 (R62): the magnitude at `mag`, the channel's shared sign register at `sign`. -/
def valSM16 (b : Build) (m : Frame) (mag sign den : Nat) : Option FieldValue :=
  match u16 m mag, u16 m sign with
  | some v, some s => some (scale b.outRepr (applySign b.signMode v s) den)
  | _, _ => none

/-- The value of an operation's field by its schema constants (R62, R63). -/
def valueOf (i : Instr) (b : Build) (m : Frame) : Option FieldValue :=
  match i.schema.format with
  | .u16s off => valU16S b m off i.schema.den
  | .u32lw off => valU32LW b m off i.schema.den
  | .sm16 mag sign => valSM16 b m mag sign i.schema.den

/-! ### DECODE as one function -/

/-- The body of DECODE's loop (R80) for the channel whose half of the frame begins at `base`. -/
def decodeChannel (b : Build) (m : Frame) (base : Nat) : ChannelMeasurement (Option FieldValue) where
  voltage := valU16S b m (base + 0) 100
  current := valSM16 b m (base + 2) (base + 6) 100
  activePower := valSM16 b m (base + 4) (base + 6) 1
  positiveEnergy := valU32LW b m (base + 8) 1000
  negativeEnergy := valU32LW b m (base + 12) 1000
  powerFactor := valU16S b m (base + 16) 1000
  frequency := valU16S b m (base + 18) 100

/-- DECODE's outputs as the pure function of its inputs that R3 and R80 give: STATUS and REC. Where LEN is
40 or more and a lane carries no byte, the spec gives no outputs (R22 rules such an input out), and that the
function then answers OK with no record is the model's choice: no step calls this function, the steps fault
there (`Fault.absentByte`), and no run reaches such a state. DESIGN CHOICE, log entry 1. -/
def decodeFunction (b : Build) (m : Frame) (len : Nat) :
    Status × Option (TelemetryRecord FieldValue) :=
  if len < Config.frameBytes then (.tooShort, none)
  else (.ok, (TelemetryRecord.mk (decodeChannel b m Channel.ch1.base)
    (decodeChannel b m Channel.ch2.base)).complete)

/-! ### The output numerators -/

/-- The hardware width of a field's numerator (R25, D21). -/
def numeratorWidth (mode : SignMode) (f : FieldName) : Nat :=
  match f with
  | .current | .activePower =>
    match mode with
    | .zeroTest | .bit0 => 17
    | .sourceFormula => 34
  | .positiveEnergy | .negativeEnergy => 32
  | .voltage | .powerFactor | .frequency => 16

/-- The numerator kinds of R25: current and power are signed, the others unsigned. -/
def signedField : FieldName → Bool
  | .current | .activePower => true
  | _ => false

/-- A numerator on the output wires of its field, two's complement or unsigned binary (R25, D21). -/
def numeratorBits (mode : SignMode) (f : FieldName) (n : Int) : BitVec (numeratorWidth mode f) :=
  BitVec.ofInt (numeratorWidth mode f) n

/-- The numerator that the wires of a field carry. -/
def numeratorOfBits (mode : SignMode) (f : FieldName) (w : BitVec (numeratorWidth mode f)) : Int :=
  if signedField f then w.toInt else (w.toNat : Int)

end Sys2Proof.Machine
end

