-- ==== Sys2Proof/Machine/SM16.lean ====
section
/-! DEFINITION. The field operations of format SM16: current and active power, which share their channel's
sign register. -/

namespace Sys2Proof.Machine

/-- R121: `out.ch1.current <- scale(apply_sign(U16(2), U16(6)), 100)`. -/
def execCh1Current (s : State) : Host.Outcome State Fault Refusal :=
  fieldOp .ch1 .current (valSM16 s.build s.frame 2 6 100) s

/-- R122: `out.ch1.active_power <- scale(apply_sign(U16(4), U16(6)), 1)`. -/
def execCh1Power (s : State) : Host.Outcome State Fault Refusal :=
  fieldOp .ch1 .activePower (valSM16 s.build s.frame 4 6 1) s

/-- R128: `out.ch2.current <- scale(apply_sign(U16(22), U16(26)), 100)`. -/
def execCh2Current (s : State) : Host.Outcome State Fault Refusal :=
  fieldOp .ch2 .current (valSM16 s.build s.frame 22 26 100) s

/-- R129: `out.ch2.active_power <- scale(apply_sign(U16(24), U16(26)), 1)`. -/
def execCh2Power (s : State) : Host.Outcome State Fault Refusal :=
  fieldOp .ch2 .activePower (valSM16 s.build s.frame 24 26 1) s

end Sys2Proof.Machine
end

