-- ==== Sys2Proof/Machine/U16S.lean ====
section
/-! DEFINITION. The field operations of format U16S: voltage, power factor and frequency. -/

namespace Sys2Proof.Machine

/-- R120: `out.ch1.voltage <- scale(U16(0), 100)`. -/
def execCh1Voltage (s : State) : Host.Outcome State Fault Refusal :=
  fieldOp .ch1 .voltage (valU16S s.build s.frame 0 100) s

/-- R125: `out.ch1.power_factor <- scale(U16(16), 1000)`. -/
def execCh1Pf (s : State) : Host.Outcome State Fault Refusal :=
  fieldOp .ch1 .powerFactor (valU16S s.build s.frame 16 1000) s

/-- R126: `out.ch1.frequency <- scale(U16(18), 100)`. -/
def execCh1Freq (s : State) : Host.Outcome State Fault Refusal :=
  fieldOp .ch1 .frequency (valU16S s.build s.frame 18 100) s

/-- R127: `out.ch2.voltage <- scale(U16(20), 100)`. -/
def execCh2Voltage (s : State) : Host.Outcome State Fault Refusal :=
  fieldOp .ch2 .voltage (valU16S s.build s.frame 20 100) s

/-- R132: `out.ch2.power_factor <- scale(U16(36), 1000)`. -/
def execCh2Pf (s : State) : Host.Outcome State Fault Refusal :=
  fieldOp .ch2 .powerFactor (valU16S s.build s.frame 36 1000) s

/-- R133: `out.ch2.frequency <- scale(U16(38), 100)`. -/
def execCh2Freq (s : State) : Host.Outcome State Fault Refusal :=
  fieldOp .ch2 .frequency (valU16S s.build s.frame 38 100) s

end Sys2Proof.Machine
end

