-- ==== Sys2Proof/Machine/U32LW.lean ====
section
/-! DEFINITION. The field operations of format U32LW: positive and negative energy. -/

namespace Sys2Proof.Machine

/-- R123: `out.ch1.positive_energy <- scale(U32LW(8), 1000)`. -/
def execCh1Penergy (s : State) : Host.Outcome State Fault Refusal :=
  fieldOp .ch1 .positiveEnergy (valU32LW s.build s.frame 8 1000) s

/-- R124: `out.ch1.negative_energy <- scale(U32LW(12), 1000)`. -/
def execCh1Nenergy (s : State) : Host.Outcome State Fault Refusal :=
  fieldOp .ch1 .negativeEnergy (valU32LW s.build s.frame 12 1000) s

/-- R130: `out.ch2.positive_energy <- scale(U32LW(28), 1000)`. -/
def execCh2Penergy (s : State) : Host.Outcome State Fault Refusal :=
  fieldOp .ch2 .positiveEnergy (valU32LW s.build s.frame 28 1000) s

/-- R131: `out.ch2.negative_energy <- scale(U32LW(32), 1000)`. -/
def execCh2Nenergy (s : State) : Host.Outcome State Fault Refusal :=
  fieldOp .ch2 .negativeEnergy (valU32LW s.build s.frame 32 1000) s

end Sys2Proof.Machine
end

