-- ==== Sys2Proof/Machine/Dispatch.lean ====
section
/-! DEFINITION. The meaning of each field operation, one arm per constructor. -/

namespace Sys2Proof.Machine

def exec (i : Instr) (s : State) : Host.Outcome State Fault Refusal :=
  match i with
  | .ch1Voltage => Sys2Proof.Machine.execCh1Voltage s
  | .ch1Current => Sys2Proof.Machine.execCh1Current s
  | .ch1Power => Sys2Proof.Machine.execCh1Power s
  | .ch1Penergy => Sys2Proof.Machine.execCh1Penergy s
  | .ch1Nenergy => Sys2Proof.Machine.execCh1Nenergy s
  | .ch1Pf => Sys2Proof.Machine.execCh1Pf s
  | .ch1Freq => Sys2Proof.Machine.execCh1Freq s
  | .ch2Voltage => Sys2Proof.Machine.execCh2Voltage s
  | .ch2Current => Sys2Proof.Machine.execCh2Current s
  | .ch2Power => Sys2Proof.Machine.execCh2Power s
  | .ch2Penergy => Sys2Proof.Machine.execCh2Penergy s
  | .ch2Nenergy => Sys2Proof.Machine.execCh2Nenergy s
  | .ch2Pf => Sys2Proof.Machine.execCh2Pf s
  | .ch2Freq => Sys2Proof.Machine.execCh2Freq s

end Sys2Proof.Machine
end

