-- ==== Sys2Proof/Machine/Sequence.lean ====
section
/-! DEFINITION. What one step runs: the next field operation of the running transaction, or else the
host's next action, or else nothing. -/

namespace Sys2Proof.Machine

/-- One field operation of the running DECODE: its select code is decoded, its meaning runs, and the
transaction goes on (R80, R88). A reserved code names no operation (R66). -/
def stepField (sel : Sel) (s : State) : Host.Outcome State Fault Refusal :=
  match decode sel with
  | .ok i =>
    match exec i s with
    | .next t => .next t.advance
    | .fault r => .fault r
    | .refused r => .refused r
  | .error _ => .refused .reservedSelect

/-- The step. While a transaction runs, the host's actions wait: it holds its inputs stable (R173) and
waits for completion (R175, R177). With nothing to run and nothing asked, the block idles. -/
def stepState (s : State) : Host.Outcome State Fault Refusal :=
  match s.todo with
  | sel :: _ => stepField sel s
  | [] =>
    match s.script with
    | cmd :: rest => .next ((s.nextStatement rest).hostAction cmd)
    | [] => .next s

end Sys2Proof.Machine
end

