-- ==== Sys2Proof/Machine/Step.lean ====
section
/-! DEFINITION. The step of the machine, and how the host places an instruction for it. -/

namespace Sys2Proof.Machine

/-- One step. -/
def step (s : State) : Host.Outcome State Fault Refusal := stepState s

/-- `s` with the field operation whose code is `w` as the next one of a running transaction, so that the
next step runs it. SEL has four lines (R65): they carry bits 3..0 of `w`. Log entry 10. -/
def State.withFetchWord (s : State) (nbits w : Nat) : State :=
  s.placeCode (BitVec.ofNat 4 (w % 2 ^ nbits))

end Sys2Proof.Machine
end

