-- ==== Sys2Proof/Machine/Script.lean ====
section
/-! DEFINITION. The transaction script of R69: its statements, the expansion of the pseudo-statement REGS,
the reading of a script's text, and what an EXPECT asserts. -/

namespace Sys2Proof.Machine

/-! ### Statements -/

/-- An operand of REGS: a register value, or `W32:V` for a 32-bit value. -/
inductive RegTok where
  | reg (r : Word)
  | w32 (v : DWord)
  deriving DecidableEq, Repr

/-- A statement of R69. -/
inductive Stmt where
  | frame (bytes : List Byte)
  | regs (toks : List RegTok)
  | decode
  | read (sel : Sel)
  | expectStatus (st : Status)
  | expectField (i : Instr) (num : Int) (den : Nat)
  deriving DecidableEq, Repr

/-- `hi(r) lo(r)`: the register's bytes in frame order. -/
def wordBytes (r : Word) : List Byte := [r.extractLsb' 8 8, r.extractLsb' 0 8]

/-- The registers an operand stands for: `W32:V` is `V[15:0] V[31:16]`, low word first (R42). -/
def RegTok.words : RegTok → List Word
  | .reg r => [r]
  | .w32 v => [v.extractLsb' 0 16, v.extractLsb' 16 16]

/-- The buffer a REGS statement expands to. -/
def regsBytes (toks : List RegTok) : List Byte :=
  toks.flatMap fun t => t.words.flatMap wordBytes

/-- The host action of a statement. -/
def Stmt.cmd : Stmt → HostCmd
  | .frame bytes => .frame bytes
  | .regs toks => .frame (regsBytes toks)
  | .decode => .decode
  | .read sel => .read sel
  | .expectStatus st => .expectStatus st
  | .expectField i n d => .expectField i n d

/-- Whether an EXPECT's assertion holds; it holds of no field that has no value, and every statement that
is no EXPECT asserts nothing. An assertion `<num>/0` holds of no field, since no such rational exists: the
spec does not say what it means. DESIGN CHOICE, log entry 15. -/
def State.meets (s : State) : HostCmd → Bool
  | .expectStatus st => decide (s.status = some st)
  | .expectField i n d =>
    match s.readPort (encode i) with
    | .value v => v.same (.exact n d)
    | _ => false
  | _ => true

/-! ### The text of a script -/

/-- Why a line is no statement. -/
inductive ScriptError where
  | unknownStatement
  | badNumber
  | tooLarge
  | unknownField
  | badAssertion
  deriving DecidableEq, Repr

/-- The value of a digit of a base up to 16. -/
def digitValue (base : Nat) (c : Char) : Option Nat :=
  let n := c.toNat
  let v := if 48 ≤ n ∧ n ≤ 57 then n - 48
    else if 97 ≤ n ∧ n ≤ 102 then n - 87
    else if 65 ≤ n ∧ n ≤ 70 then n - 55
    else base
  if v < base then some v else none

/-- The value of a run of digits, after those of value `acc`. -/
def digitsValue (base : Nat) : Nat → List Char → Option Nat
  | acc, [] => some acc
  | acc, c :: cs =>
    match digitValue base c with
    | some d => digitsValue base (acc * base + d) cs
    | none => none

/-- A number: hexadecimal with a `0x` prefix, or decimal without one. -/
def numberValue : List Char → Option Nat
  | [] => none
  | ['0', 'x'] => none
  | '0' :: 'x' :: cs => digitsValue 16 0 cs
  | cs => digitsValue 10 0 cs

/-- A number with a sign before it, for the numerator of an assertion. -/
def signedValue : List Char → Option Int
  | '-' :: cs => (numberValue cs).map fun n => -(n : Int)
  | '−' :: cs => (numberValue cs).map fun n => -(n : Int)
  | cs => (numberValue cs).map fun n => (n : Int)

/-- A number of at most `w` bits. -/
def wordValue (w : Nat) (cs : List Char) : Except ScriptError (BitVec w) :=
  match numberValue cs with
  | none => .error .badNumber
  | some n => if n < 2 ^ w then .ok (BitVec.ofNat w n) else .error .tooLarge

/-- The operation a name of the opcode table names. -/
def mnemonicInstr (cs : List Char) : Option Instr :=
  match cs with
  | 'C' :: 'H' :: c :: '.' :: f =>
    if c = '1' then
      if f = ['V', 'O', 'L', 'T', 'A', 'G', 'E'] then some .ch1Voltage
      else if f = ['C', 'U', 'R', 'R', 'E', 'N', 'T'] then some .ch1Current
      else if f = ['P', 'O', 'W', 'E', 'R'] then some .ch1Power
      else if f = ['P', 'E', 'N', 'E', 'R', 'G', 'Y'] then some .ch1Penergy
      else if f = ['N', 'E', 'N', 'E', 'R', 'G', 'Y'] then some .ch1Nenergy
      else if f = ['P', 'F'] then some .ch1Pf
      else if f = ['F', 'R', 'E', 'Q'] then some .ch1Freq
      else none
    else if c = '2' then
      if f = ['V', 'O', 'L', 'T', 'A', 'G', 'E'] then some .ch2Voltage
      else if f = ['C', 'U', 'R', 'R', 'E', 'N', 'T'] then some .ch2Current
      else if f = ['P', 'O', 'W', 'E', 'R'] then some .ch2Power
      else if f = ['P', 'E', 'N', 'E', 'R', 'G', 'Y'] then some .ch2Penergy
      else if f = ['N', 'E', 'N', 'E', 'R', 'G', 'Y'] then some .ch2Nenergy
      else if f = ['P', 'F'] then some .ch2Pf
      else if f = ['F', 'R', 'E', 'Q'] then some .ch2Freq
      else none
    else none
  | _ => none

/-- The operand of READ: a name, or a select code as a number. -/
def readOperand (cs : List Char) : Except ScriptError Sel :=
  match mnemonicInstr cs with
  | some i => .ok (encode i)
  | none => wordValue 4 cs

/-- An operand of REGS. -/
def regOperand : List Char → Except ScriptError RegTok
  | 'W' :: '3' :: '2' :: ':' :: cs => (wordValue 32 cs).map .w32
  | cs => (wordValue 16 cs).map .reg

/-- All operands of a statement, or the first error. -/
def allOk {α : Type} (f : List Char → Except ScriptError α) :
    List (List Char) → Except ScriptError (List α)
  | [] => .ok []
  | t :: ts =>
    match f t, allOk f ts with
    | .ok a, .ok as => .ok (a :: as)
    | .error e, _ => .error e
    | _, .error e => .error e

/-- What stands before and after the first `c`. -/
def splitFirst (c : Char) : List Char → Option (List Char × List Char)
  | [] => none
  | d :: ds =>
    if d = c then some ([], ds)
    else (splitFirst c ds).map fun p => (d :: p.1, p.2)

/-- The operand of EXPECT: `STATUS=<OK or TOO_SHORT>` or `<name>=<num>/<D>`. R69 bounds D nowhere, so 0 is
read as any other number; the assertion then holds of no field. DESIGN CHOICE, log entry 15. -/
def assertion (cs : List Char) : Except ScriptError Stmt :=
  match splitFirst '=' cs with
  | none => .error .badAssertion
  | some (l, r) =>
    if l = ['S', 'T', 'A', 'T', 'U', 'S'] then
      if r = ['O', 'K'] then .ok (.expectStatus .ok)
      else if r = ['T', 'O', 'O', '_', 'S', 'H', 'O', 'R', 'T'] then .ok (.expectStatus .tooShort)
      else .error .badAssertion
    else match mnemonicInstr l, splitFirst '/' r with
      | none, _ => .error .unknownField
      | _, none => .error .badAssertion
      | some i, some (n, d) =>
        match signedValue n, numberValue d with
        | some num, some den => .ok (.expectField i num den)
        | _, _ => .error .badNumber

/-- The words of a line: runs of characters other than blanks, `word` being the one begun (reversed). -/
def lineWords : List Char → List Char → List (List Char)
  | word, [] => if word = [] then [] else [word.reverse]
  | word, c :: cs =>
    if c = ' ' ∨ c = '\t' ∨ c = '\r' then
      if word = [] then lineWords [] cs else word.reverse :: lineWords [] cs
    else lineWords (c :: word) cs

/-- One line of a script; a line that is blank or only a comment is no statement. -/
def parseLine (line : List Char) : Except ScriptError (Option Stmt) :=
  match lineWords [] (line.takeWhile (· ≠ ';')) with
  | [] => .ok none
  | kw :: ops =>
    if kw = ['F', 'R', 'A', 'M', 'E'] then (allOk (wordValue 8) ops).map (some ∘ .frame)
    else if kw = ['R', 'E', 'G', 'S'] then (allOk regOperand ops).map (some ∘ .regs)
    else if kw = ['D', 'E', 'C', 'O', 'D', 'E'] then
      if ops = [] then .ok (some .decode) else .error .unknownStatement
    else if kw = ['R', 'E', 'A', 'D'] then
      match ops with
      | [t] => (readOperand t).map (some ∘ .read)
      | _ => .error .unknownStatement
    else if kw = ['E', 'X', 'P', 'E', 'C', 'T'] then
      match ops with
      | [t] => (assertion t).map some
      | _ => .error .unknownStatement
    else .error .unknownStatement

/-- The host actions of a script, one line a statement. -/
def parseScript : List (List Char) → Except ScriptError (List HostCmd)
  | [] => .ok []
  | l :: ls =>
    match parseLine l, parseScript ls with
    | .ok (some st), .ok cmds => .ok (st.cmd :: cmds)
    | .ok none, .ok cmds => .ok cmds
    | .error e, _ => .error e
    | _, .error e => .error e

/-- The state in which the host is about to perform a script. -/
def State.withScript (cmds : List HostCmd) (s : State) : State := { s with script := cmds }

end Sys2Proof.Machine
end

