-- ==== Sys2Proof/Safety.lean ====
section
/-! DEFINITION. The terms statements are written in: which lanes an operation reads, when a frame is
presented whole, the states a run can be in, and what a field rule of 42_fields.md says. -/

namespace Sys2Proof.Machine

/-- The byte offsets a field of the given format reads (R62). -/
def lanesOf : Format → List Nat
  | .u16s off => [off, off + 1]
  | .u32lw off => [off, off + 1, off + 2, off + 3]
  | .sm16 mag sign => [mag, mag + 1, sign, sign + 1]

/-- Every lane of FRAME carries a byte. -/
def Frame.Whole (m : Frame) : Prop := ∀ i, i < Config.frameBytes → ∃ b, m.read i = some b

/-- The states a run can be in. -/
structure State.Inv (s : State) : Prop where
  /-- The frame is in its canonical form. -/
  frame_wf : s.frame.wf = true
  /-- The lanes that carry a byte are those of the buffer the host delivered (R21, R22). -/
  frame_presented : s.frame.map Prod.fst = List.range (min s.len Config.frameBytes)
  /-- Field operations stand to be evaluated only where the length check has passed (R81). -/
  checked : s.todo ≠ [] → s.full = true
  /-- While a DECODE is in progress STATUS and REC hold no value (R175). -/
  silent : s.todo ≠ [] → s.status = none ∧ s.record = none
  /-- REC is valid exactly when STATUS = OK (R25). -/
  record_iff_ok : s.status = some .ok ↔ s.record.isSome = true
  /-- Between transactions nothing of a transaction is kept (R20). -/
  unwritten : s.todo = [] → s.out = TelemetryRecord.unwritten
  /-- No reserved code stands among those of a transaction (R66). -/
  codes : ∀ sel, sel ∈ s.todo → ∃ i, decode sel = .ok i
  /-- A field of the running transaction is written or its operation still stands to be evaluated. -/
  due : s.todo ≠ [] → ∀ i : Instr, encode i ∈ s.todo ∨ (s.out.get i.channel i.field).isSome = true
  /-- A written field holds the value its rule gives for this frame (R82). -/
  right : ∀ (i : Instr) (v : FieldValue),
    s.out.get i.channel i.field = some v → valueOf i s.build s.frame = some v

/-- What a U16S rule of 42_fields.md says (R120, R125, R126, R127, R132, R133): the select code, the schema
constants, the value written and the frame of the operation, the numerator's range, and that with
`LEN < 40` nothing changes. `write` is the record with the rule's output field written. What the rule does
not say is the model's: that the operation answers the state unchanged with `LEN < 40` (from R153 and R81),
and that it writes its field also where no transaction runs. DEDUCED and DESIGN CHOICE, log entry 12. -/
def U16SRule (i : Instr) (sel : Sel) (schema : Schema) (off den : Nat)
    (write : TelemetryRecord (Option FieldValue) → FieldValue → TelemetryRecord (Option FieldValue)) :
    Prop :=
  decode sel = .ok i ∧ encode i = sel ∧ i.schema = schema ∧
  (∀ (s : State) (hi lo : Byte), 40 ≤ s.len →
    s.frame.read off = some hi → s.frame.read (off + 1) = some lo →
    hi.toNat * 256 + lo.toNat ≤ 65535 ∧
    exec i s = .next { s with
      out := write s.out (scale s.build.outRepr ((hi.toNat * 256 + lo.toNat : Nat) : Int) den) }) ∧
  (∀ s : State, s.len < 40 → exec i s = .next s)

/-- What a U32LW rule of 42_fields.md says (R123, R124, R130, R131); as `U16SRule`, log
entry 12 included. -/
def U32LWRule (i : Instr) (sel : Sel) (schema : Schema) (off den : Nat)
    (write : TelemetryRecord (Option FieldValue) → FieldValue → TelemetryRecord (Option FieldValue)) :
    Prop :=
  decode sel = .ok i ∧ encode i = sel ∧ i.schema = schema ∧
  (∀ (s : State) (b0 b1 b2 b3 : Byte), 40 ≤ s.len →
    s.frame.read off = some b0 → s.frame.read (off + 1) = some b1 →
    s.frame.read (off + 2) = some b2 → s.frame.read (off + 3) = some b3 →
    (b2.toNat * 256 + b3.toNat) * 65536 + (b0.toNat * 256 + b1.toNat) ≤ 4294967295 ∧
    exec i s = .next { s with
      out := write s.out (scale s.build.outRepr
        (((b2.toNat * 256 + b3.toNat) * 65536 + (b0.toNat * 256 + b1.toNat) : Nat) : Int) den) }) ∧
  (∀ s : State, s.len < 40 → exec i s = .next s)

/-- The polarity rule of R102 in the numbers of the two registers: magnitude `m`, sign register `s`. -/
def signedNumerator (mode : SignMode) (m s : Nat) : Int :=
  match mode with
  | .zeroTest => if s = 0 then (m : Int) else -(m : Int)
  | .bit0 => if s % 2 = 0 then (m : Int) else -(m : Int)
  | .sourceFormula => (m : Int) - 2 * (s : Int) * (m : Int)

/-- What an SM16 rule of 42_fields.md says (R121, R122, R128, R129); as `U16SRule`, log entry 12
included. The numerator's range is that of SIGN_MODE ZERO_TEST and BIT0. -/
def SM16Rule (i : Instr) (sel : Sel) (schema : Schema) (mag sign den : Nat)
    (write : TelemetryRecord (Option FieldValue) → FieldValue → TelemetryRecord (Option FieldValue)) :
    Prop :=
  decode sel = .ok i ∧ encode i = sel ∧ i.schema = schema ∧
  (∀ (s : State) (m1 m0 s1 s0 : Byte), 40 ≤ s.len →
    s.frame.read mag = some m1 → s.frame.read (mag + 1) = some m0 →
    s.frame.read sign = some s1 → s.frame.read (sign + 1) = some s0 →
    let n := signedNumerator s.build.signMode (m1.toNat * 256 + m0.toNat) (s1.toNat * 256 + s0.toNat)
    (s.build.signMode ≠ .sourceFormula → -65535 ≤ n ∧ n ≤ 65535) ∧
    exec i s = .next { s with out := write s.out (scale s.build.outRepr n den) }) ∧
  (∀ s : State, s.len < 40 → exec i s = .next s)

end Sys2Proof.Machine
end

