-- ==== Sys2Proof/Certificates/Slice0/Obligations.lean ====
section
/-! DEFINITION. The statements for the provers, in the order of the spec's files: codes, primitives, field
operations, the transaction, the READ port, the host's actions, and the invariant of runs. -/

open Sys2Proof Sys2Proof.Machine

/-! ### Codes -/

/-- R65: SEL[3] picks the channel, SEL[2:0] the field index; the fourteen codes of its table. -/
def Obligations.SelectCodesFollowTheTable : Prop :=
  (decode 0x0#4 = .ok .ch1Voltage ∧ decode 0x1#4 = .ok .ch1Current ∧ decode 0x2#4 = .ok .ch1Power ∧
   decode 0x3#4 = .ok .ch1Penergy ∧ decode 0x4#4 = .ok .ch1Nenergy ∧ decode 0x5#4 = .ok .ch1Pf ∧
   decode 0x6#4 = .ok .ch1Freq ∧ decode 0x7#4 = .error (.reserved 0x7#4) ∧
   decode 0x8#4 = .ok .ch2Voltage ∧ decode 0x9#4 = .ok .ch2Current ∧ decode 0xA#4 = .ok .ch2Power ∧
   decode 0xB#4 = .ok .ch2Penergy ∧ decode 0xC#4 = .ok .ch2Nenergy ∧ decode 0xD#4 = .ok .ch2Pf ∧
   decode 0xE#4 = .ok .ch2Freq ∧ decode 0xF#4 = .error (.reserved 0xF#4)) ∧
  (∀ (sel : Sel) (i : Instr), decode sel = .ok i →
    (sel.getLsbD 3 = false → i.channel = .ch1) ∧ (sel.getLsbD 3 = true → i.channel = .ch2) ∧
    sel.extractLsb' 0 3 = i.field.index)

/-- R65, R66: decoding and encoding agree on the 4-bit codes and on the bytes that hold them, and exactly
the codes 0x7 and 0xF are refused. -/
def Obligations.DecodeAndEncodeAgree : Prop :=
  (∀ i : Instr, i.wf = true ∧ decode (encode i) = .ok i) ∧
  (∀ (sel : Sel) (i : Instr), decode sel = .ok i → encode i = sel) ∧
  (∀ (b : Byte) (i : Instr), decodeByte b = .ok i ↔ b.toNat = (encode i).toNat) ∧
  (∀ sel : Sel, (∃ r, decode sel = .error r) ↔ sel = 0x7#4 ∨ sel = 0xF#4)

/-- R66: a READ with a reserved code is refused: it answers no value. That the refusal is recorded as the
READ's answer while the machine goes on is the model's choice (log entry 6). -/
def Obligations.ReservedReadIsRefused : Prop :=
  ∀ (s : State) (sel : Sel) (rest : List HostCmd), sel = 0x7#4 ∨ sel = 0xF#4 →
    s.todo = [] → s.script = .read sel :: rest →
    step s = .next { s with script := rest, response := some .reservedSelect }

/-- R66 for a code that stands among those of a running transaction: it names no field operation, so the
step refuses it by name. The list of codes is the model's own (log entry 4). -/
def Obligations.ReservedCodeInTransactionStops : Prop :=
  ∀ (s : State) (sel : Sel) (rest : List Sel), sel = 0x7#4 ∨ sel = 0xF#4 →
    s.todo = sel :: rest → step s = .refused .reservedSelect

/-- R67: STATUS is one bit, 0 for OK and 1 for TOO_SHORT. -/
def Obligations.StatusIsOneBit : Prop :=
  Status.bit .ok = 0#1 ∧ Status.bit .tooShort = 1#1 ∧
  (∀ st : Status, Status.ofBit st.bit = st) ∧ (∀ b : BitVec 1, (Status.ofBit b).bit = b)

/-! ### Primitives -/

/-- R41, R100: `U16(i)` is the big-endian unsigned value of two bytes, equal to `MemRead(i, 2)` (R9). -/
def Obligations.U16IsBigEndian : Prop :=
  ∀ (m : Frame) (i : Nat) (hi lo : Byte), m.read i = some hi → m.read (i + 1) = some lo →
    memRead m i 2 = some (hi.toNat * 256 + lo.toNat) ∧
    ∃ w, u16 m i = some w ∧ w.toNat = hi.toNat * 256 + lo.toNat ∧
      w.extractLsb' 8 8 = hi ∧ w.extractLsb' 0 8 = lo

/-- R42, R101: a 32-bit field holds its low word first: the bytes at `i`, `i+1`, `i+2`, `i+3` hold bits
15:8, 7:0, 31:24 and 23:16. -/
def Obligations.U32IsLowWordFirst : Prop :=
  ∀ (m : Frame) (i : Nat) (b0 b1 b2 b3 : Byte), m.read i = some b0 → m.read (i + 1) = some b1 →
    m.read (i + 2) = some b2 → m.read (i + 3) = some b3 →
    ∃ v, u32lw m i = some v ∧
      v.toNat = (b2.toNat * 256 + b3.toNat) * 65536 + (b0.toNat * 256 + b1.toNat) ∧
      v.extractLsb' 8 8 = b0 ∧ v.extractLsb' 0 8 = b1 ∧
      v.extractLsb' 24 8 = b2 ∧ v.extractLsb' 16 8 = b3

/-- R23: register `k` sits at byte offset `2k`. -/
def Obligations.RegisterViewOfFrame : Prop :=
  ∀ (m : Frame) (k : Fin 20) (hi lo : Byte), m.read (2 * k.val) = some hi →
    m.read (2 * k.val + 1) = some lo →
    ∃ w, m.reg k = some w ∧ w.toNat = hi.toNat * 256 + lo.toNat

/-- R102: `apply_sign` in its three modes, their agreement on 0 and 1, and the ranges of the result. -/
def Obligations.ApplySignModes : Prop :=
  ∀ m s : Word,
    (s = 0#16 → applySign .zeroTest m s = (m.toNat : Int)) ∧
    (s ≠ 0#16 → applySign .zeroTest m s = -(m.toNat : Int)) ∧
    (s.getLsbD 0 = false → applySign .bit0 m s = (m.toNat : Int)) ∧
    (s.getLsbD 0 = true → applySign .bit0 m s = -(m.toNat : Int)) ∧
    applySign .sourceFormula m s =
      (1 - (s.toNat : Int)) * (m.toNat : Int) - (s.toNat : Int) * (m.toNat : Int) ∧
    applySign .sourceFormula m s = (m.toNat : Int) - 2 * (s.toNat : Int) * (m.toNat : Int) ∧
    (∀ mode : SignMode, (s = 0#16 → applySign mode m s = (m.toNat : Int)) ∧
      (s = 1#16 → applySign mode m s = -(m.toNat : Int))) ∧
    (∀ mode : SignMode, mode ≠ .sourceFormula →
      -65535 ≤ applySign mode m s ∧ applySign mode m s ≤ 65535) ∧
    (-8589606915 ≤ applySign .sourceFormula m s ∧ applySign .sourceFormula m s ≤ 65535)

/-- R103: under EXACT the field is the pair (n, D), which stands for n / D: no rounding, and D = 1, 100 and
1000 leave at most 0, 2 and 3 fractional digits. Under any other OUT_REPR it is `conv(n, D)`; nothing is
assumed of `conv`, and this holds for every `conv`. -/
def Obligations.ScaleIsExactDivision : Prop :=
  (∀ (n : Int) (d : Nat), scale .exact n d = .exact n d ∧
    scale .other n d = .converted (Config.conv n d)) ∧
  (∀ (n : Int) (d : Nat), d = 1 ∨ d = 100 ∨ d = 1000 →
    ∃ q : Rat, (scale .exact n d).value = some q ∧ q * (d : Rat) = (n : Rat)) ∧
  (∀ n : Int, ∃ q : Rat, (scale .exact n 1).value = some q ∧ ∃ z : Int, q = (z : Rat)) ∧
  (∀ n : Int, ∃ q : Rat, (scale .exact n 100).value = some q ∧ ∃ z : Int, q * 10 ^ 2 = (z : Rat)) ∧
  (∀ n : Int, ∃ q : Rat, (scale .exact n 1000).value = some q ∧ ∃ z : Int, q * 10 ^ 3 = (z : Rat))

/-- R10: two fields are equal when their rationals are equal. -/
def Obligations.FieldEqualityIsOfRationals : Prop :=
  ∀ (n n' : Int) (d d' : Nat), 0 < d → 0 < d' →
    ((FieldValue.exact n d).same (.exact n' d') = true ↔ n * (d' : Int) = n' * (d : Int))

/-- R25, D21: under EXACT the denominator is the schema's, the numerator lies in its kind's range, and its
hardware width carries it: 17 bits (34 under SOURCE_FORMULA) for current and power, 32 for the energies,
16 for the rest. -/
def Obligations.NumeratorsFitTheirWidths : Prop :=
  ∀ (i : Instr) (b : Build) (m : Frame) (n : Int) (d : Nat), b.outRepr = .exact →
    valueOf i b m = some (.exact n d) →
    d = i.schema.den ∧
    numeratorOfBits b.signMode i.field (numeratorBits b.signMode i.field n) = n ∧
    (signedField i.field = false → 0 ≤ n) ∧
    (signedField i.field = true → b.signMode ≠ .sourceFormula → -65535 ≤ n ∧ n ≤ 65535)

/-! ### The fourteen field operations -/

/-- R120, R127. That the operation answers the state unchanged with LEN below 40, and that it writes its
field also where no transaction runs, are the model's (log entry 12). -/
def Obligations.VoltageRules : Prop :=
  U16SRule .ch1Voltage 0x0#4 ⟨.ch1, .voltage, .u16s 0, 100, .volt⟩ 0 100
    (fun r v => { r with ch1 := { r.ch1 with voltage := some v } }) ∧
  U16SRule .ch2Voltage 0x8#4 ⟨.ch2, .voltage, .u16s 20, 100, .volt⟩ 20 100
    (fun r v => { r with ch2 := { r.ch2 with voltage := some v } })

/-- R121, R128. That the operation answers the state unchanged with LEN below 40, and that it writes its
field also where no transaction runs, are the model's (log entry 12). -/
def Obligations.CurrentRules : Prop :=
  SM16Rule .ch1Current 0x1#4 ⟨.ch1, .current, .sm16 2 6, 100, .ampere⟩ 2 6 100
    (fun r v => { r with ch1 := { r.ch1 with current := some v } }) ∧
  SM16Rule .ch2Current 0x9#4 ⟨.ch2, .current, .sm16 22 26, 100, .ampere⟩ 22 26 100
    (fun r v => { r with ch2 := { r.ch2 with current := some v } })

/-- R122, R129. That the operation answers the state unchanged with LEN below 40, and that it writes its
field also where no transaction runs, are the model's (log entry 12). -/
def Obligations.PowerRules : Prop :=
  SM16Rule .ch1Power 0x2#4 ⟨.ch1, .activePower, .sm16 4 6, 1, .watt⟩ 4 6 1
    (fun r v => { r with ch1 := { r.ch1 with activePower := some v } }) ∧
  SM16Rule .ch2Power 0xA#4 ⟨.ch2, .activePower, .sm16 24 26, 1, .watt⟩ 24 26 1
    (fun r v => { r with ch2 := { r.ch2 with activePower := some v } })

/-- R123, R130. That the operation answers the state unchanged with LEN below 40, and that it writes its
field also where no transaction runs, are the model's (log entry 12). -/
def Obligations.PositiveEnergyRules : Prop :=
  U32LWRule .ch1Penergy 0x3#4 ⟨.ch1, .positiveEnergy, .u32lw 8, 1000, .kilowattHour⟩ 8 1000
    (fun r v => { r with ch1 := { r.ch1 with positiveEnergy := some v } }) ∧
  U32LWRule .ch2Penergy 0xB#4 ⟨.ch2, .positiveEnergy, .u32lw 28, 1000, .kilowattHour⟩ 28 1000
    (fun r v => { r with ch2 := { r.ch2 with positiveEnergy := some v } })

/-- R124, R131. That the operation answers the state unchanged with LEN below 40, and that it writes its
field also where no transaction runs, are the model's (log entry 12). -/
def Obligations.NegativeEnergyRules : Prop :=
  U32LWRule .ch1Nenergy 0x4#4 ⟨.ch1, .negativeEnergy, .u32lw 12, 1000, .kilowattHour⟩ 12 1000
    (fun r v => { r with ch1 := { r.ch1 with negativeEnergy := some v } }) ∧
  U32LWRule .ch2Nenergy 0xC#4 ⟨.ch2, .negativeEnergy, .u32lw 32, 1000, .kilowattHour⟩ 32 1000
    (fun r v => { r with ch2 := { r.ch2 with negativeEnergy := some v } })

/-- R125, R132. That the operation answers the state unchanged with LEN below 40, and that it writes its
field also where no transaction runs, are the model's (log entry 12). -/
def Obligations.PowerFactorRules : Prop :=
  U16SRule .ch1Pf 0x5#4 ⟨.ch1, .powerFactor, .u16s 16, 1000, .dimensionless⟩ 16 1000
    (fun r v => { r with ch1 := { r.ch1 with powerFactor := some v } }) ∧
  U16SRule .ch2Pf 0xD#4 ⟨.ch2, .powerFactor, .u16s 36, 1000, .dimensionless⟩ 36 1000
    (fun r v => { r with ch2 := { r.ch2 with powerFactor := some v } })

/-- R126, R133. That the operation answers the state unchanged with LEN below 40, and that it writes its
field also where no transaction runs, are the model's (log entry 12). -/
def Obligations.FrequencyRules : Prop :=
  U16SRule .ch1Freq 0x6#4 ⟨.ch1, .frequency, .u16s 18, 100, .hertz⟩ 18 100
    (fun r v => { r with ch1 := { r.ch1 with frequency := some v } }) ∧
  U16SRule .ch2Freq 0xE#4 ⟨.ch2, .frequency, .u16s 38, 100, .hertz⟩ 38 100
    (fun r v => { r with ch2 := { r.ch2 with frequency := some v } })

/-- R22, I8: a lane that carries no byte of the buffer has no value; an operation that would read one with
LEN of 40 or more stops by name. The spec rules such states out; that the model stops there is its choice
(log entry 1). -/
def Obligations.AbsentLaneStopsFieldOperation : Prop :=
  ∀ (i : Instr) (s : State), 40 ≤ s.len → (∃ o ∈ lanesOf i.schema.format, s.frame.read o = none) →
    exec i s = .fault .absentByte

/-- R9, R20, R27, R45: the frame of every field operation: its own output field may change, and nothing
else. -/
def Obligations.FieldOperationFrame : Prop :=
  ∀ (i : Instr) (s t : State), exec i s = .next t →
    t.build = s.build ∧ t.frame = s.frame ∧ t.len = s.len ∧ t.status = s.status ∧
    t.record = s.record ∧ t.todo = s.todo ∧ t.script = s.script ∧ t.response = s.response ∧
    (∀ o, t.frame.read o = s.frame.read o) ∧
    (∀ ch f, (ch, f) ≠ (i.channel, i.field) → t.out.get ch f = s.out.get ch f)

/-- R88: field operations may be evaluated in any order, with the same result. -/
def Obligations.FieldOperationsCommute : Prop :=
  ∀ (i j : Instr) (s t u : State), exec i s = .next t → exec j t = .next u →
    ∃ t', exec j s = .next t' ∧ exec i t' = .next u

/-- R134, R174: an operation depends on the lanes of its own channel only. -/
def Obligations.ChannelsAreIndependent : Prop :=
  ∀ (i : Instr) (s t s' : State), s.build = t.build → 40 ≤ s.len → 40 ≤ t.len →
    (∀ o, i.channel.base ≤ o → o < i.channel.base + 20 → s.frame.read o = t.frame.read o) →
    exec i s = .next s' →
    ∃ t', exec i t = .next t' ∧ t'.out.get i.channel i.field = s'.out.get i.channel i.field

/-- R61, R134: lane ch2 applies the operations of lane ch1 to the frame bytes 20 higher. -/
def Obligations.SecondLaneReadsTwentyHigher : Prop :=
  ∀ (i j : Instr) (s t s' : State), i.channel = .ch1 → j.channel = .ch2 → i.field = j.field →
    s.build = t.build → 40 ≤ s.len → 40 ≤ t.len →
    (∀ o, o < 20 → t.frame.read (o + 20) = s.frame.read o) →
    exec i s = .next s' →
    ∃ t', exec j t = .next t' ∧ t'.out.get .ch2 j.field = s'.out.get .ch1 i.field

/-! ### The transaction -/

/-- R65, R80, R82: a step of a running transaction runs the operation its first code names, then takes the
code off the list, and after the last one gives out STATUS OK and the complete record. The model's choices
(DESIGN CHOICE, log entry 4): that the operations stand in a list of codes run one a step, and the last
clause, that a transaction which would end with a field unwritten leaves STATUS and REC without a value
(R82 forbids the partial record and gives no STATUS for such a case). -/
def Obligations.StepRunsDecodedOperation : Prop :=
  ∀ (s : State) (sel : Sel) (rest : List Sel) (i : Instr), s.todo = sel :: rest → decode sel = .ok i →
    (∀ r, exec i s = .fault r → step s = .fault r) ∧
    (∀ t, exec i s = .next t → rest ≠ [] → step s = .next { t with todo := rest }) ∧
    (∀ t r, exec i s = .next t → rest = [] → t.out.complete = some r →
      step s = .next { t with
        status := some .ok, record := some r, out := .unwritten, todo := [] }) ∧
    (∀ t, exec i s = .next t → rest = [] → t.out.complete = none →
      step s = .next { t with status := none, record := none, out := .unwritten, todo := [] })

/-- R81, R175: a DECODE that passes the length check has all fourteen operations before it, and STATUS and
REC hold no value until it completes. Spreading it over steps is the model's choice (log entry 4). -/
def Obligations.LongEnoughDecodeStarts : Prop :=
  ∀ (s : State) (rest : List HostCmd), s.todo = [] → s.script = .decode :: rest → 40 ≤ s.len →
    ∃ codes, step s = .next { s with
        script := rest, status := none, record := none, out := .unwritten, todo := codes } ∧
      codes.length = 14 ∧ ∀ i : Instr, encode i ∈ codes

/-- R150, R154: a DECODE with LEN below 40 sets STATUS to TOO_SHORT (bit 1) and gives REC no value, whatever
FRAME holds, and nothing else changes; no other step makes STATUS say TOO_SHORT. -/
def Obligations.ShortDecodeReportsTooShort : Prop :=
  Status.bit .tooShort = 1#1 ∧
  (∀ (s : State) (rest : List HostCmd), s.todo = [] → s.script = .decode :: rest → s.len < 40 →
    step s = .next { s with
      script := rest, status := some .tooShort, record := none, out := .unwritten }) ∧
  (∀ s t : State, step s = .next t → s.status ≠ some .tooShort → t.status = some .tooShort →
    s.todo = [] ∧ s.len < 40 ∧ ∃ rest, s.script = .decode :: rest)

/-- R80, R82: DECODE as a run: from any state in which the host starts it with the frame presented whole, it
completes with STATUS = OK and the whole record that R80's pseudocode gives, and with LEN below 40 it
completes with what the pseudocode gives there. That it takes fifteen steps, or
one, is the model's choice (log entry 4). -/
def Obligations.DecodeRunComputesTheRecord : Prop :=
  ∀ (s : State) (rest : List HostCmd), s.todo = [] → s.script = .decode :: rest →
    (40 ≤ s.len → s.frame.Whole →
      ∃ r, decodeFunction s.build s.frame s.len = (.ok, some r) ∧
        Host.Core.run core 15 s = .next ({ s with
          script := rest, status := some .ok, record := some r, out := .unwritten } : State)) ∧
    (s.len < 40 →
      decodeFunction s.build s.frame s.len = (.tooShort, none) ∧
        Host.Core.run core 1 s = .next ({ s with
          script := rest, status := some .tooShort, record := none, out := .unwritten } : State))

/-- R80 in numbers: the fourteen fields of the record, from the forty bytes of the frame. -/
def Obligations.RecordFromFortyBytes : Prop :=
  ∀ (b : Build) (m : Frame) (len : Nat) (x : Nat → Nat), 40 ≤ len →
    (∀ i, i < 40 → ∃ y : Byte, m.read i = some y ∧ y.toNat = x i) →
    let reg := fun i => x i * 256 + x (i + 1)
    let nat := fun (n d : Nat) => scale b.outRepr (n : Int) d
    let sgn := fun (i s d : Nat) => scale b.outRepr (signedNumerator b.signMode (reg i) (reg s)) d
    decodeFunction b m len = (.ok, some
      { ch1 :=
          { voltage := nat (reg 0) 100
            current := sgn 2 6 100
            activePower := sgn 4 6 1
            positiveEnergy := nat (reg 10 * 65536 + reg 8) 1000
            negativeEnergy := nat (reg 14 * 65536 + reg 12) 1000
            powerFactor := nat (reg 16) 1000
            frequency := nat (reg 18) 100 }
        ch2 :=
          { voltage := nat (reg 20) 100
            current := sgn 22 26 100
            activePower := sgn 24 26 1
            positiveEnergy := nat (reg 30 * 65536 + reg 28) 1000
            negativeEnergy := nat (reg 34 * 65536 + reg 32) 1000
            powerFactor := nat (reg 36) 1000
            frequency := nat (reg 38) 100 } })

/-- R20, R83: the outputs of a DECODE depend on its inputs alone: from two states with the same forty lanes,
LEN on the same side of 40 and the same build, whatever happened before, it gives the same STATUS and REC.
That both complete after the same number of model steps is the model's choice (log entry 4): R178 leaves the
latency open, and says nothing of whether it depends on the data. -/
def Obligations.DecodeForgetsHistory : Prop :=
  ∀ (s t : State) (rest rest' : List HostCmd), s.todo = [] → t.todo = [] →
    s.script = .decode :: rest → t.script = .decode :: rest' → s.build = t.build →
    (∀ o, o < 40 → s.frame.read o = t.frame.read o) → (40 ≤ s.len ↔ 40 ≤ t.len) →
    (40 ≤ s.len → s.frame.Whole) →
    ∃ (k : Nat) (s' t' : State),
      Host.Core.run core k s = .next s' ∧ Host.Core.run core k t = .next t' ∧
      s'.todo = [] ∧ t'.todo = [] ∧ s'.script = rest ∧ t'.script = rest' ∧
      s'.status ≠ none ∧ s'.status = t'.status ∧ s'.record = t'.record

/-- R178: every DECODE in progress completes: from any state a run can be in, after one step for each
operation still to be evaluated, STATUS is OK and REC holds the record of R80's pseudocode. That a DECODE
is counted in steps, one an operation, is the model's choice, and the steps stand for no time (log entries 4
and 8). -/
def Obligations.EveryDecodeCompletes : Prop :=
  ∀ s : State, s.Inv → s.todo ≠ [] →
    ∃ (t : State) (r : TelemetryRecord FieldValue),
      Host.Core.run core s.todo.length s = .next t ∧
      decodeFunction s.build s.frame s.len = (.ok, some r) ∧
      t = { s with status := some .ok, record := some r, out := .unwritten, todo := [] }

/-! ### The READ port -/

/-- R85: READ answers the field its select code picks of the last completed DECODE, and changes nothing
else; without a record it answers NoRecord. That the answer stands in the state is the model's choice
(log entry 6). -/
def Obligations.ReadAnswersTheSelectedField : Prop :=
  ∀ (s : State) (sel : Sel) (rest : List HostCmd), s.todo = [] → s.script = .read sel :: rest →
    (∀ r, s.status = some .ok → s.record = some r →
      ∀ v, (sel, v) ∈ [(0x0#4, r.ch1.voltage), (0x1#4, r.ch1.current), (0x2#4, r.ch1.activePower),
          (0x3#4, r.ch1.positiveEnergy), (0x4#4, r.ch1.negativeEnergy), (0x5#4, r.ch1.powerFactor),
          (0x6#4, r.ch1.frequency), (0x8#4, r.ch2.voltage), (0x9#4, r.ch2.current),
          (0xA#4, r.ch2.activePower), (0xB#4, r.ch2.positiveEnergy), (0xC#4, r.ch2.negativeEnergy),
          (0xD#4, r.ch2.powerFactor), (0xE#4, r.ch2.frequency)] →
        step s = .next { s with script := rest, response := some (.value v) }) ∧
    (s.status ≠ some .ok ∨ s.record = none → sel ≠ 0x7#4 → sel ≠ 0xF#4 →
      step s = .next { s with script := rest, response := some .noRecord }) ∧
    (sel = 0x7#4 ∨ sel = 0xF#4 →
      step s = .next { s with script := rest, response := some .reservedSelect })

/-! ### The host's actions -/

/-- R21, R22, R69: presenting a buffer of n bytes: lane i carries byte i for i below min(n, 40), LEN is n,
no other lane carries a byte of the buffer, and nothing else changes. -/
def Obligations.PresentDrivesTheLanes : Prop :=
  ∀ (s : State) (bytes : List Byte) (rest : List HostCmd), s.todo = [] →
    s.script = .frame bytes :: rest →
    ∃ m, step s = .next { s with script := rest, frame := m, len := bytes.length } ∧
      m.wf = true ∧ ∀ i, m.read i = if i < 40 then bytes[i]? else none

/-- R68: a longer frame decodes exactly as its first 40 bytes do. -/
def Obligations.LongBufferDecodesAsFirstForty : Prop :=
  ∀ (b : Build) (bytes : List Byte), 40 ≤ bytes.length →
    decodeFunction b (Frame.ofBuffer bytes) bytes.length =
      decodeFunction b (Frame.ofBuffer (bytes.take 40)) 40

/-- R69 `REGS` and `W32:`: the buffer a REGS statement presents reads back as its registers, and as its
32-bit values where a `W32:` stands. -/
def Obligations.RegsExpandToRegisters : Prop :=
  (∀ (pre post : List RegTok) (w : Word), (regsBytes pre).length + 2 ≤ 40 →
    u16 (Frame.ofBuffer (regsBytes (pre ++ .reg w :: post))) (regsBytes pre).length = some w) ∧
  (∀ (pre post : List RegTok) (v : DWord), (regsBytes pre).length + 4 ≤ 40 →
    u32lw (Frame.ofBuffer (regsBytes (pre ++ .w32 v :: post))) (regsBytes pre).length = some v) ∧
  (∀ toks : List RegTok, (regsBytes toks).length = 2 * (toks.flatMap RegTok.words).length)

/-- R69, R176: an EXPECT has no effect on the block, and with nothing asked of it the block does nothing. -/
def Obligations.ExpectAndIdleHaveNoEffect : Prop :=
  ∀ s : State, s.todo = [] →
    (s.script = [] → step s = .next s) ∧
    (∀ st rest, s.script = .expectStatus st :: rest → step s = .next { s with script := rest }) ∧
    (∀ i n d rest, s.script = .expectField i n d :: rest → step s = .next { s with script := rest })

/-- R175: STATUS and REC keep the result of the last completed DECODE until the next one, and hold no value
while one is in progress. -/
def Obligations.OutputsHeldBetweenDecodes : Prop :=
  ∀ s t : State, step s = .next t →
    (s.todo = [] → (∀ rest, s.script ≠ .decode :: rest) →
      t.status = s.status ∧ t.record = s.record) ∧
    (s.Inv → t.todo ≠ [] → t.status = none ∧ t.record = none)

/-- R28, R45: no step changes the build-time parameters, and only the host's presenting of a buffer changes
FRAME and LEN. That it never does so while a transaction is in progress is the model's assumption about the
host, which is given no such move: R173 makes it the host's duty and asks a model to list it (DEDUCED,
unsafe, log entry 9). -/
def Obligations.OnlyTheHostChangesTheInputs : Prop :=
  ∀ s t : State, step s = .next t →
    t.build = s.build ∧
    (s.todo ≠ [] → t.frame = s.frame ∧ t.len = s.len) ∧
    ((∀ bytes rest, s.script ≠ .frame bytes :: rest) → t.frame = s.frame ∧ t.len = s.len)

/-! ### The invariant of runs -/

/-- Every step keeps the invariant. -/
def Obligations.StepKeepsTheInvariant : Prop :=
  ∀ s t : State, s.Inv → step s = .next t → t.Inv

/-- The invariant holds at reset. -/
def Obligations.ResetMeetsTheInvariant : Prop := State.reset.Inv

/-- R151: the block raises no error of its own: from any state a run can be in, the step answers a next
state. -/
def Obligations.InvariantStatesNeverStop : Prop :=
  ∀ s : State, s.Inv → ∃ t, step s = .next t

/-- R171: before the first DECODE, STATUS and REC hold no value, no transaction is in progress, and a READ
is refused with NoRecord. -/
def Obligations.ResetHoldsNoOutputs : Prop :=
  State.reset.status = none ∧ State.reset.record = none ∧ State.reset.todo = [] ∧
  (∀ (sel : Sel) (rest : List HostCmd), sel ≠ 0x7#4 → sel ≠ 0xF#4 →
    step (State.reset.withScript (.read sel :: rest)) =
      .next { State.reset with script := rest, response := some .noRecord })
end

