-- ==== Sys2Proof/Laws/Frame.lean ====
section
/-! SUPPORT. What presenting a buffer makes the lanes carry, and the canonical form it keeps. -/

namespace Sys2Proof.Machine

theorem Frame.read_ofBytesAt (k : Nat) (bytes : List Byte) (i : Nat) :
    (Frame.ofBytesAt k bytes).read i = if k ≤ i then bytes[i - k]? else none := by
  induction bytes generalizing k with
  | nil => simp [Frame.ofBytesAt, Frame.read]
  | cons b rest ih =>
    simp only [Frame.ofBytesAt, Frame.read, ih]
    rcases Nat.lt_trichotomy k i with h | h | h
    · rw [if_neg (by omega), if_pos (by omega), if_pos (by omega),
        show i - k = (i - (k + 1)) + 1 by omega, List.getElem?_cons_succ]
    · subst h; simp
    · rw [if_neg (by omega), if_neg (by omega), if_neg (by omega)]

/-- Lane `i` carries byte `i` of the buffer, for the first forty bytes (R21, R69). -/
theorem Frame.read_ofBuffer (bytes : List Byte) (i : Nat) :
    (Frame.ofBuffer bytes).read i = if i < 40 then bytes[i]? else none := by
  simp [Frame.ofBuffer, Frame.read_ofBytesAt, List.getElem?_take]

theorem Frame.lanes_ofBytesAt (k : Nat) (bytes : List Byte) :
    (Frame.ofBytesAt k bytes).map Prod.fst = List.range' k bytes.length := by
  induction bytes generalizing k with
  | nil => rfl
  | cons b rest ih => simp [Frame.ofBytesAt, ih, List.range'_succ]

/-- The lanes that carry a byte are those of the buffer, up to forty. -/
theorem Frame.lanes_ofBuffer (bytes : List Byte) :
    (Frame.ofBuffer bytes).map Prod.fst = List.range (min bytes.length 40) := by
  simp [Frame.ofBuffer, Frame.lanes_ofBytesAt, List.range_eq_range', Nat.min_comm]

theorem Frame.risesFrom_ofBytesAt (k : Nat) (bytes : List Byte) (h : k + bytes.length ≤ 40) :
    Frame.risesFrom k (Frame.ofBytesAt k bytes) = true := by
  induction bytes generalizing k with
  | nil => rfl
  | cons b rest ih =>
    simp only [List.length_cons] at h
    simp [Frame.ofBytesAt, Frame.risesFrom, ih (k + 1) (by omega)]
    omega

/-- Presenting a buffer keeps the canonical form of the frame. -/
theorem Frame.wf_ofBuffer (bytes : List Byte) : (Frame.ofBuffer bytes).wf = true :=
  Frame.risesFrom_ofBytesAt 0 _ (by simp)

/-- A lane that the frame lists carries a byte. -/
theorem Frame.read_isSome {m : Frame} {i : Nat} (h : i ∈ m.map Prod.fst) :
    ∃ b, m.read i = some b := by
  induction m with
  | nil => simp at h
  | cons c rest ih =>
    obtain ⟨k, b⟩ := c
    by_cases hk : k = i
    · exact ⟨b, by simp [Frame.read, hk]⟩
    · simp only [List.map_cons, List.mem_cons, Ne.symm hk, false_or] at h
      simpa [Frame.read, hk] using ih h

/-- The frame of a reset state is in canonical form. -/
theorem Frame.wf_reset : State.reset.frame.wf = true := rfl

end Sys2Proof.Machine
end

