-- ==== Sys2Proof/Laws/Operands.lean ====
section
/-! SUPPORT. What each extraction primitive gives, once. -/

namespace Sys2Proof.Machine

/-- Two carried lanes give the big-endian register value. -/
theorem u16_of_read {m : Frame} {i : Nat} {hi lo : Byte} (h1 : m.read i = some hi)
    (h0 : m.read (i + 1) = some lo) :
    u16 m i = some (BitVec.ofNat 16 (hi.toNat * 256 + lo.toNat)) := by
  simp only [u16, h1, h0, Option.some.injEq]
  apply BitVec.eq_of_toNat_eq
  have a := hi.isLt; have b := lo.isLt
  have hs : (hi.toNat <<< 8) % 65536 = hi.toNat <<< 8 := by
    rw [Nat.shiftLeft_eq]; omega
  have key : hi.toNat <<< 8 ||| lo.toNat = hi.toNat * 256 + lo.toNat := by
    rw [← Nat.shiftLeft_add_eq_or_of_lt b, Nat.shiftLeft_eq]
  simp only [BitVec.toNat_or, BitVec.toNat_shiftLeft, BitVec.toNat_setWidth, BitVec.toNat_ofNat]
  rw [Nat.mod_eq_of_lt (by omega : hi.toNat < 2 ^ 16), Nat.mod_eq_of_lt (by omega : lo.toNat < 2 ^ 16)]
  rw [show (2 : Nat) ^ 16 = 65536 from rfl, hs, key]
  omega

/-- A register that some lane of does not carry has no value. -/
theorem u16_eq_none {m : Frame} {i : Nat} (h : m.read i = none ∨ m.read (i + 1) = none) :
    u16 m i = none := by
  unfold u16; rcases h with h | h <;> simp only [h]
  split <;> simp_all

/-- Two registers give the 32-bit value, the low word from the lower offset. -/
theorem u32lw_of_u16 {m : Frame} {i : Nat} {lo hi : Word} (h0 : u16 m i = some lo)
    (h1 : u16 m (i + 2) = some hi) :
    u32lw m i = some (BitVec.ofNat 32 (hi.toNat * 65536 + lo.toNat)) := by
  simp only [u32lw, h1, h0, Option.some.injEq]
  apply BitVec.eq_of_toNat_eq
  have a := hi.isLt; have b := lo.isLt
  have key : hi.toNat <<< 16 ||| lo.toNat = hi.toNat * 65536 + lo.toNat := by
    rw [← Nat.shiftLeft_add_eq_or_of_lt b, Nat.shiftLeft_eq]
  have hs : (hi.toNat <<< 16) % 4294967296 = hi.toNat <<< 16 := by
    rw [Nat.shiftLeft_eq]; omega
  simp only [BitVec.toNat_or, BitVec.toNat_shiftLeft, BitVec.toNat_setWidth, BitVec.toNat_ofNat]
  rw [Nat.mod_eq_of_lt (by omega : hi.toNat < 2 ^ 32), Nat.mod_eq_of_lt (by omega : lo.toNat < 2 ^ 32)]
  rw [show (2 : Nat) ^ 32 = 4294967296 from rfl, hs, key]
  omega

/-- A value of format U16S that exists comes from its register. -/
theorem valU16S_eq_some {b : Build} {m : Frame} {off den : Nat} {v : FieldValue}
    (h : valU16S b m off den = some v) :
    ∃ w, u16 m off = some w ∧ v = scale b.outRepr (w.toNat : Int) den := by
  unfold valU16S at h; split at h
  · exact ⟨_, ‹_›, by simpa using h.symm⟩
  · cases h

/-- A value of format U32LW that exists comes from its two registers. -/
theorem valU32LW_eq_some {b : Build} {m : Frame} {off den : Nat} {v : FieldValue}
    (h : valU32LW b m off den = some v) :
    ∃ w, u32lw m off = some w ∧ v = scale b.outRepr (w.toNat : Int) den := by
  unfold valU32LW at h; split at h
  · exact ⟨_, ‹_›, by simpa using h.symm⟩
  · cases h

/-- A value of format SM16 that exists comes from its magnitude and sign registers. -/
theorem valSM16_eq_some {b : Build} {m : Frame} {mag sign den : Nat} {v : FieldValue}
    (h : valSM16 b m mag sign den = some v) :
    ∃ w s, u16 m mag = some w ∧ u16 m sign = some s ∧
      v = scale b.outRepr (applySign b.signMode w s) den := by
  unfold valSM16 at h; split at h
  · exact ⟨_, _, ‹_›, ‹_›, by simpa using h.symm⟩
  · cases h

/-- An exact field over a denominator other than 0 stands for its rational. -/
theorem FieldValue.value_exact {n : Int} {d : Nat} (h : d ≠ 0) :
    (FieldValue.exact n d).value = some ((n : Rat) / (d : Rat)) := if_neg h

/-- Nothing equals a fraction over 0. -/
theorem FieldValue.same_zero_den (v : FieldValue) (n : Int) : v.same (.exact n 0) = false := by
  unfold FieldValue.same
  cases v.value <;> rfl

/-- A register depends on its two lanes only. -/
theorem u16_congr {m m' : Frame} {i j : Nat} (h0 : m.read i = m'.read j)
    (h1 : m.read (i + 1) = m'.read (j + 1)) : u16 m i = u16 m' j := by
  simp only [u16, h0, h1]

/-- A 32-bit value depends on its four lanes only. -/
theorem u32lw_congr {m m' : Frame} {i j : Nat} (h0 : u16 m i = u16 m' j)
    (h1 : u16 m (i + 2) = u16 m' (j + 2)) : u32lw m i = u32lw m' j := by
  simp only [u32lw, h0, h1]

end Sys2Proof.Machine
end

