-- ==== Sys2Proof/Laws/PerInstr.lean ====
section
/-! SUPPORT. Statements about each field operation as a term: its schema constants obey the spec's
constraints and lie in its channel's half of the frame, and its select code names its output field. -/

namespace Sys2Proof.Laws

/-- The schema constants of an operation are well formed (R43, R46, R103), its select code is not
reserved (R66), and that code's bits name its channel and its field (R65). -/
def Schema.Statement (i : Instr) : Prop :=
  i.wf = true ∧ Sel.wf (encode i) = true ∧ Sel.channel (encode i) = i.channel ∧
    Sel.field (encode i) = some i.field

theorem Schema.ch1Voltage : Schema.Statement .ch1Voltage := by unfold Schema.Statement; decide
theorem Schema.ch1Current : Schema.Statement .ch1Current := by unfold Schema.Statement; decide
theorem Schema.ch1Power : Schema.Statement .ch1Power := by unfold Schema.Statement; decide
theorem Schema.ch1Penergy : Schema.Statement .ch1Penergy := by unfold Schema.Statement; decide
theorem Schema.ch1Nenergy : Schema.Statement .ch1Nenergy := by unfold Schema.Statement; decide
theorem Schema.ch1Pf : Schema.Statement .ch1Pf := by unfold Schema.Statement; decide
theorem Schema.ch1Freq : Schema.Statement .ch1Freq := by unfold Schema.Statement; decide
theorem Schema.ch2Voltage : Schema.Statement .ch2Voltage := by unfold Schema.Statement; decide
theorem Schema.ch2Current : Schema.Statement .ch2Current := by unfold Schema.Statement; decide
theorem Schema.ch2Power : Schema.Statement .ch2Power := by unfold Schema.Statement; decide
theorem Schema.ch2Penergy : Schema.Statement .ch2Penergy := by unfold Schema.Statement; decide
theorem Schema.ch2Nenergy : Schema.Statement .ch2Nenergy := by unfold Schema.Statement; decide
theorem Schema.ch2Pf : Schema.Statement .ch2Pf := by unfold Schema.Statement; decide
theorem Schema.ch2Freq : Schema.Statement .ch2Freq := by unfold Schema.Statement; decide

end Sys2Proof.Laws
end

