-- ==== Sys2Proof/Laws/Record.lean ====
section
/-! SUPPORT. Reading and writing the fields of a record. -/

namespace Sys2Proof.Machine

@[simp] theorem TelemetryRecord.get_set_self {α : Type} (r : TelemetryRecord α) (ch : Channel)
    (f : FieldName) (v : α) : (r.set ch f v).get ch f = v := by
  cases ch <;> cases f <;> rfl

/-- Writing one field leaves every other field alone. -/
theorem TelemetryRecord.get_set_other {α : Type} (r : TelemetryRecord α) {ch ch' : Channel}
    {f f' : FieldName} (v : α) (h : (ch', f') ≠ (ch, f)) : (r.set ch f v).get ch' f' = r.get ch' f' := by
  cases ch <;> cases f <;> cases ch' <;> cases f' <;> first | rfl | exact absurd rfl h

@[simp] theorem TelemetryRecord.get_unwritten (ch : Channel) (f : FieldName) :
    TelemetryRecord.unwritten.get ch f = none := by
  cases ch <;> cases f <;> rfl

/-- A channel is complete as soon as each of its fields is written, and then keeps them. -/
theorem ChannelMeasurement.complete_of_get {c : ChannelMeasurement (Option FieldValue)}
    (h : ∀ f, (c.get f).isSome = true) :
    ∃ d, c.complete = some d ∧ ∀ f, c.get f = some (d.get f) := by
  obtain ⟨v, cu, p, pe, ne, pf, fr⟩ := c
  have h1 := h .voltage; have h2 := h .current; have h3 := h .activePower
  have h4 := h .positiveEnergy; have h5 := h .negativeEnergy; have h6 := h .powerFactor
  have h7 := h .frequency
  simp only [ChannelMeasurement.get, Option.isSome_iff_exists] at h1 h2 h3 h4 h5 h6 h7
  obtain ⟨_, rfl⟩ := h1; obtain ⟨_, rfl⟩ := h2; obtain ⟨_, rfl⟩ := h3; obtain ⟨_, rfl⟩ := h4
  obtain ⟨_, rfl⟩ := h5; obtain ⟨_, rfl⟩ := h6; obtain ⟨_, rfl⟩ := h7
  exact ⟨_, rfl, fun f => by cases f <;> rfl⟩

/-- A record is complete as soon as each of its fields is written, and then keeps them. -/
theorem TelemetryRecord.complete_of_get {r : TelemetryRecord (Option FieldValue)}
    (h : ∀ ch f, (r.get ch f).isSome = true) :
    ∃ d, r.complete = some d ∧ ∀ ch f, r.get ch f = some (d.get ch f) := by
  obtain ⟨a, ha, ga⟩ := ChannelMeasurement.complete_of_get (c := r.ch1) (h .ch1)
  obtain ⟨b, hb, gb⟩ := ChannelMeasurement.complete_of_get (c := r.ch2) (h .ch2)
  refine ⟨⟨a, b⟩, by simp [TelemetryRecord.complete, ha, hb], fun ch f => ?_⟩
  cases ch
  · exact ga f
  · exact gb f

/-- Two records with the same fields are the same. -/
theorem TelemetryRecord.ext_get {α : Type} {r r' : TelemetryRecord α}
    (h : ∀ ch f, r.get ch f = r'.get ch f) : r = r' := by
  obtain ⟨⟨_, _, _, _, _, _, _⟩, ⟨_, _, _, _, _, _, _⟩⟩ := r
  obtain ⟨⟨_, _, _, _, _, _, _⟩, ⟨_, _, _, _, _, _, _⟩⟩ := r'
  have a1 := h .ch1 .voltage; have a2 := h .ch1 .current; have a3 := h .ch1 .activePower
  have a4 := h .ch1 .positiveEnergy; have a5 := h .ch1 .negativeEnergy
  have a6 := h .ch1 .powerFactor; have a7 := h .ch1 .frequency
  have b1 := h .ch2 .voltage; have b2 := h .ch2 .current; have b3 := h .ch2 .activePower
  have b4 := h .ch2 .positiveEnergy; have b5 := h .ch2 .negativeEnergy
  have b6 := h .ch2 .powerFactor; have b7 := h .ch2 .frequency
  simp only [TelemetryRecord.get, TelemetryRecord.lane, ChannelMeasurement.get] at *
  simp [*]

end Sys2Proof.Machine
end

