-- ==== Sys2Proof/Laws/State.lean ====
section
/-! SUPPORT. One lemma per field per update of the state. -/

namespace Sys2Proof.Machine

/-! ### present -/

@[simp] theorem State.present_build (s : State) (bytes : List Byte) : (s.present bytes).build = s.build := rfl
@[simp] theorem State.present_frame (s : State) (bytes : List Byte) : (s.present bytes).frame = Frame.ofBuffer bytes := rfl
@[simp] theorem State.present_len (s : State) (bytes : List Byte) : (s.present bytes).len = bytes.length := rfl
@[simp] theorem State.present_status (s : State) (bytes : List Byte) : (s.present bytes).status = s.status := rfl
@[simp] theorem State.present_record (s : State) (bytes : List Byte) : (s.present bytes).record = s.record := rfl
@[simp] theorem State.present_out (s : State) (bytes : List Byte) : (s.present bytes).out = s.out := rfl
@[simp] theorem State.present_todo (s : State) (bytes : List Byte) : (s.present bytes).todo = s.todo := rfl
@[simp] theorem State.present_script (s : State) (bytes : List Byte) : (s.present bytes).script = s.script := rfl
@[simp] theorem State.present_response (s : State) (bytes : List Byte) : (s.present bytes).response = s.response := rfl

/-! ### writeOut -/

@[simp] theorem State.writeOut_build (s : State) (ch : Channel) (f : FieldName) (v : FieldValue) : (s.writeOut ch f v).build = s.build := rfl
@[simp] theorem State.writeOut_frame (s : State) (ch : Channel) (f : FieldName) (v : FieldValue) : (s.writeOut ch f v).frame = s.frame := rfl
@[simp] theorem State.writeOut_len (s : State) (ch : Channel) (f : FieldName) (v : FieldValue) : (s.writeOut ch f v).len = s.len := rfl
@[simp] theorem State.writeOut_status (s : State) (ch : Channel) (f : FieldName) (v : FieldValue) : (s.writeOut ch f v).status = s.status := rfl
@[simp] theorem State.writeOut_record (s : State) (ch : Channel) (f : FieldName) (v : FieldValue) : (s.writeOut ch f v).record = s.record := rfl
@[simp] theorem State.writeOut_out (s : State) (ch : Channel) (f : FieldName) (v : FieldValue) : (s.writeOut ch f v).out = s.out.set ch f (some v) := rfl
@[simp] theorem State.writeOut_todo (s : State) (ch : Channel) (f : FieldName) (v : FieldValue) : (s.writeOut ch f v).todo = s.todo := rfl
@[simp] theorem State.writeOut_script (s : State) (ch : Channel) (f : FieldName) (v : FieldValue) : (s.writeOut ch f v).script = s.script := rfl
@[simp] theorem State.writeOut_response (s : State) (ch : Channel) (f : FieldName) (v : FieldValue) : (s.writeOut ch f v).response = s.response := rfl

/-! ### raiseTooShort -/

@[simp] theorem State.raiseTooShort_build (s : State) : (s.raiseTooShort).build = s.build := rfl
@[simp] theorem State.raiseTooShort_frame (s : State) : (s.raiseTooShort).frame = s.frame := rfl
@[simp] theorem State.raiseTooShort_len (s : State) : (s.raiseTooShort).len = s.len := rfl
@[simp] theorem State.raiseTooShort_status (s : State) : (s.raiseTooShort).status = some .tooShort := rfl
@[simp] theorem State.raiseTooShort_record (s : State) : (s.raiseTooShort).record = none := rfl
@[simp] theorem State.raiseTooShort_out (s : State) : (s.raiseTooShort).out = .unwritten := rfl
@[simp] theorem State.raiseTooShort_todo (s : State) : (s.raiseTooShort).todo = [] := rfl
@[simp] theorem State.raiseTooShort_script (s : State) : (s.raiseTooShort).script = s.script := rfl
@[simp] theorem State.raiseTooShort_response (s : State) : (s.raiseTooShort).response = s.response := rfl

/-! ### answerRead -/

@[simp] theorem State.answerRead_build (s : State) (sel : Sel) : (s.answerRead sel).build = s.build := rfl
@[simp] theorem State.answerRead_frame (s : State) (sel : Sel) : (s.answerRead sel).frame = s.frame := rfl
@[simp] theorem State.answerRead_len (s : State) (sel : Sel) : (s.answerRead sel).len = s.len := rfl
@[simp] theorem State.answerRead_status (s : State) (sel : Sel) : (s.answerRead sel).status = s.status := rfl
@[simp] theorem State.answerRead_record (s : State) (sel : Sel) : (s.answerRead sel).record = s.record := rfl
@[simp] theorem State.answerRead_out (s : State) (sel : Sel) : (s.answerRead sel).out = s.out := rfl
@[simp] theorem State.answerRead_todo (s : State) (sel : Sel) : (s.answerRead sel).todo = s.todo := rfl
@[simp] theorem State.answerRead_script (s : State) (sel : Sel) : (s.answerRead sel).script = s.script := rfl
@[simp] theorem State.answerRead_response (s : State) (sel : Sel) : (s.answerRead sel).response = some (s.readPort sel) := rfl

/-! ### nextStatement -/

@[simp] theorem State.nextStatement_build (s : State) (rest : List HostCmd) : (s.nextStatement rest).build = s.build := rfl
@[simp] theorem State.nextStatement_frame (s : State) (rest : List HostCmd) : (s.nextStatement rest).frame = s.frame := rfl
@[simp] theorem State.nextStatement_len (s : State) (rest : List HostCmd) : (s.nextStatement rest).len = s.len := rfl
@[simp] theorem State.nextStatement_status (s : State) (rest : List HostCmd) : (s.nextStatement rest).status = s.status := rfl
@[simp] theorem State.nextStatement_record (s : State) (rest : List HostCmd) : (s.nextStatement rest).record = s.record := rfl
@[simp] theorem State.nextStatement_out (s : State) (rest : List HostCmd) : (s.nextStatement rest).out = s.out := rfl
@[simp] theorem State.nextStatement_todo (s : State) (rest : List HostCmd) : (s.nextStatement rest).todo = s.todo := rfl
@[simp] theorem State.nextStatement_script (s : State) (rest : List HostCmd) : (s.nextStatement rest).script = rest := rfl
@[simp] theorem State.nextStatement_response (s : State) (rest : List HostCmd) : (s.nextStatement rest).response = s.response := rfl

/-! ### withScript -/

@[simp] theorem State.withScript_build (s : State) (cmds : List HostCmd) : (s.withScript cmds).build = s.build := rfl
@[simp] theorem State.withScript_frame (s : State) (cmds : List HostCmd) : (s.withScript cmds).frame = s.frame := rfl
@[simp] theorem State.withScript_len (s : State) (cmds : List HostCmd) : (s.withScript cmds).len = s.len := rfl
@[simp] theorem State.withScript_status (s : State) (cmds : List HostCmd) : (s.withScript cmds).status = s.status := rfl
@[simp] theorem State.withScript_record (s : State) (cmds : List HostCmd) : (s.withScript cmds).record = s.record := rfl
@[simp] theorem State.withScript_out (s : State) (cmds : List HostCmd) : (s.withScript cmds).out = s.out := rfl
@[simp] theorem State.withScript_todo (s : State) (cmds : List HostCmd) : (s.withScript cmds).todo = s.todo := rfl
@[simp] theorem State.withScript_script (s : State) (cmds : List HostCmd) : (s.withScript cmds).script = cmds := rfl
@[simp] theorem State.withScript_response (s : State) (cmds : List HostCmd) : (s.withScript cmds).response = s.response := rfl

/-! ### startDecode -/

@[simp] theorem State.startDecode_build (s : State) : (s.startDecode).build = s.build := by
  unfold State.startDecode; split <;> rfl
@[simp] theorem State.startDecode_frame (s : State) : (s.startDecode).frame = s.frame := by
  unfold State.startDecode; split <;> rfl
@[simp] theorem State.startDecode_len (s : State) : (s.startDecode).len = s.len := by
  unfold State.startDecode; split <;> rfl
@[simp] theorem State.startDecode_script (s : State) : (s.startDecode).script = s.script := by
  unfold State.startDecode; split <;> rfl
@[simp] theorem State.startDecode_response (s : State) : (s.startDecode).response = s.response := by
  unfold State.startDecode; split <;> rfl

/-! ### commit -/

@[simp] theorem State.commit_build (s : State) : (s.commit).build = s.build := by
  unfold State.commit; split <;> rfl
@[simp] theorem State.commit_frame (s : State) : (s.commit).frame = s.frame := by
  unfold State.commit; split <;> rfl
@[simp] theorem State.commit_len (s : State) : (s.commit).len = s.len := by
  unfold State.commit; split <;> rfl
@[simp] theorem State.commit_script (s : State) : (s.commit).script = s.script := by
  unfold State.commit; split <;> rfl
@[simp] theorem State.commit_response (s : State) : (s.commit).response = s.response := by
  unfold State.commit; split <;> rfl

/-! ### advance -/

@[simp] theorem State.advance_build (s : State) : (s.advance).build = s.build := by
  unfold State.advance; split <;> simp
@[simp] theorem State.advance_frame (s : State) : (s.advance).frame = s.frame := by
  unfold State.advance; split <;> simp
@[simp] theorem State.advance_len (s : State) : (s.advance).len = s.len := by
  unfold State.advance; split <;> simp
@[simp] theorem State.advance_script (s : State) : (s.advance).script = s.script := by
  unfold State.advance; split <;> simp
@[simp] theorem State.advance_response (s : State) : (s.advance).response = s.response := by
  unfold State.advance; split <;> simp

@[simp] theorem State.commit_todo (s : State) : s.commit.todo = [] := by
  unfold State.commit; split <;> rfl

@[simp] theorem State.commit_out (s : State) : s.commit.out = .unwritten := by
  unfold State.commit; split <;> rfl

/-- A complete record is given out whole. -/
theorem State.commit_of_complete {s : State} {r : TelemetryRecord FieldValue}
    (h : s.out.complete = some r) :
    s.commit = { s with status := some .ok, record := some r, out := .unwritten, todo := [] } := by
  simp [State.commit, h]

/-- An incomplete record is not given out at all. -/
theorem State.commit_of_incomplete {s : State} (h : s.out.complete = none) :
    s.commit = { s with status := none, record := none, out := .unwritten, todo := [] } := by
  simp [State.commit, h]

theorem State.full_iff (s : State) : s.full = true ↔ 40 ≤ s.len := by simp [State.full]

theorem State.not_full_iff (s : State) : s.full = false ↔ s.len < 40 := by simp [State.full]

/-- A DECODE of a short buffer reports TooShort. -/
theorem State.startDecode_of_short {s : State} (h : s.len < 40) : s.startDecode = s.raiseTooShort := by
  simp [State.startDecode, State.checkedStatus, (s.not_full_iff).2 h]

/-- A DECODE of a long enough buffer leaves all field operations to be evaluated. -/
theorem State.startDecode_of_full {s : State} (h : 40 ≤ s.len) :
    s.startDecode =
      { s with status := none, record := none, out := .unwritten, todo := selectCodes } := by
  simp [State.startDecode, State.checkedStatus, (s.full_iff).2 h]

theorem State.advance_last {s : State} {sel : Sel} (h : s.todo = [sel]) : s.advance = s.commit := by
  simp [State.advance, h]

theorem State.advance_more {s : State} {sel next : Sel} {rest : List Sel}
    (h : s.todo = sel :: next :: rest) : s.advance = { s with todo := next :: rest } := by
  simp [State.advance, h]

/-- After a field operation its code has left the list. -/
@[simp] theorem State.advance_todo (s : State) : s.advance.todo = s.todo.tail := by
  unfold State.advance
  split <;> simp_all

end Sys2Proof.Machine
end

