-- ==== Sys2Proof/Laws/Step.lean ====
section
/-! SUPPORT. Everything a field operation, a host action and a step can do, once each. -/

namespace Sys2Proof.Machine

/-- The meaning of every operation is the shared one on its schema constants. -/
theorem exec_eq_fieldOp (i : Instr) (s : State) :
    exec i s = fieldOp i.channel i.field (valueOf i s.build s.frame) s := by
  cases i <;> rfl

/-- With LEN below 40 a field operation does nothing. -/
theorem exec_of_short {s : State} (i : Instr) (h : s.len < 40) : exec i s = .next s := by
  simp [exec_eq_fieldOp, fieldOp, (s.not_full_iff).2 h]

/-- With LEN of 40 or more a field operation writes the value its lanes give. -/
theorem exec_of_value {s : State} {i : Instr} {v : FieldValue} (h : 40 ≤ s.len)
    (hv : valueOf i s.build s.frame = some v) :
    exec i s = .next (s.writeOut i.channel i.field v) := by
  simp [exec_eq_fieldOp, fieldOp, (s.full_iff).2 h, hv]

/-- With LEN of 40 or more a field operation stops on a lane that carries no byte. -/
theorem exec_of_absent {s : State} {i : Instr} (h : 40 ≤ s.len)
    (hv : valueOf i s.build s.frame = none) : exec i s = .fault .absentByte := by
  simp [exec_eq_fieldOp, fieldOp, (s.full_iff).2 h, hv]

/-- Everything a field operation can do when it answers a next state. -/
theorem exec_cases {i : Instr} {s t : State} (h : exec i s = .next t) :
    (s.len < 40 ∧ t = s) ∨
    (40 ≤ s.len ∧ ∃ v, valueOf i s.build s.frame = some v ∧
      t = s.writeOut i.channel i.field v) := by
  rcases Nat.lt_or_ge s.len 40 with hl | hl
  · rw [exec_of_short i hl] at h; cases h; exact .inl ⟨hl, rfl⟩
  · cases hv : valueOf i s.build s.frame with
    | none => rw [exec_of_absent hl hv] at h; cases h
    | some v => rw [exec_of_value hl hv] at h; cases h; exact .inr ⟨hl, v, rfl, rfl⟩

/-- Everything a step can do when it answers a next state. -/
theorem step_cases {s t : State} (h : step s = .next t) :
    (∃ sel rest i u, s.todo = sel :: rest ∧ decode sel = .ok i ∧ exec i s = .next u ∧ t = u.advance) ∨
    (∃ cmd rest, s.todo = [] ∧ s.script = cmd :: rest ∧ t = (s.nextStatement rest).hostAction cmd) ∨
    (s.todo = [] ∧ s.script = [] ∧ t = s) := by
  unfold step stepState at h
  split at h
  · rename_i sel rest htodo
    unfold stepField at h
    split at h
    · rename_i i hd
      split at h
      · rename_i u hu; cases h; exact .inl ⟨sel, rest, i, u, htodo, hd, hu, rfl⟩
      · cases h
      · cases h
    · cases h
  · split at h
    · rename_i htodo _ cmd rest hs; cases h; exact .inr (.inl ⟨cmd, rest, htodo, hs, rfl⟩)
    · rename_i htodo _ hs; cases h; exact .inr (.inr ⟨htodo, hs, rfl⟩)

/-- A step of a running transaction. -/
theorem step_of_field {s u : State} {sel : Sel} {rest : List Sel} {i : Instr}
    (ht : s.todo = sel :: rest) (hd : decode sel = .ok i) (he : exec i s = .next u) :
    step s = .next u.advance := by
  simp [step, stepState, ht, stepField, hd, he]

/-- A step of the host. -/
theorem step_of_host {s : State} {cmd : HostCmd} {rest : List HostCmd}
    (ht : s.todo = []) (hs : s.script = cmd :: rest) :
    step s = .next ((s.nextStatement rest).hostAction cmd) := by
  simp [step, stepState, ht, hs]

/-- A step with nothing to do. -/
theorem step_of_idle {s : State} (ht : s.todo = []) (hs : s.script = []) : step s = .next s := by
  simp [step, stepState, ht, hs]

/-- A run whose first step answers `t` goes on from `t`. -/
theorem run_of_step {s t : State} (h : step s = .next t) (n : Nat) :
    Host.Core.run core (n + 1) s = Host.Core.run core n t := by
  have h' : core.step s = .next t := h
  simp only [Host.Core.run, h']

end Sys2Proof.Machine
end

