-- ==== Sys2Proof/Tests/Slice0.lean ====
section
/-! SUPPORT. The model's own tests: ill-formed terms that the checks refuse, the select codes written out bit
by bit, the spec's test vectors (95_test_vectors.md), and for every obligation with hypotheses a witness
that meets them. -/

namespace Sys2Proof.Machine

/-! ### Well-formedness: one ill-formed term for each check -/

theorem test_wf_odd_offset : Schema.wf ⟨.ch1, .voltage, .u16s 1, 100, .volt⟩ = false := by decide
theorem test_wf_other_half : Schema.wf ⟨.ch1, .voltage, .u16s 20, 100, .volt⟩ = false := by decide
theorem test_wf_past_the_frame : Schema.wf ⟨.ch2, .frequency, .u16s 40, 100, .hertz⟩ = false := by decide
theorem test_wf_energy_offset :
    Schema.wf ⟨.ch1, .positiveEnergy, .u32lw 10, 1000, .kilowattHour⟩ = false := by decide
theorem test_wf_energy_outside :
    Schema.wf ⟨.ch2, .positiveEnergy, .u32lw 8, 1000, .kilowattHour⟩ = false := by decide
theorem test_wf_magnitude_offset : Schema.wf ⟨.ch1, .current, .sm16 3 6, 100, .ampere⟩ = false := by decide
theorem test_wf_sign_of_other_channel :
    Schema.wf ⟨.ch1, .current, .sm16 2 26, 100, .ampere⟩ = false := by decide
theorem test_wf_denominator : Schema.wf ⟨.ch1, .voltage, .u16s 0, 10, .volt⟩ = false := by decide
theorem test_wf_reserved_codes : Sel.wf 0x7#4 = false ∧ Sel.wf 0xF#4 = false ∧ Sel.wf 0xE#4 = true := by
  decide
theorem test_wf_frame_order :
    Frame.wf [(1, 0#8), (0, 0#8)] = false ∧ Frame.wf [(0, 0#8), (0, 1#8)] = false ∧
    Frame.wf [(40, 0#8)] = false ∧ Frame.wf [(0, 0#8), (39, 1#8)] = true := by decide

/-! ### Decoding: each code written bit by bit from 30_encoding.md R65 -/

theorem test_decode_0000 : decode 0b0000#4 = .ok .ch1Voltage := by decide
theorem test_decode_0001 : decode 0b0001#4 = .ok .ch1Current := by decide
theorem test_decode_0010 : decode 0b0010#4 = .ok .ch1Power := by decide
theorem test_decode_0011 : decode 0b0011#4 = .ok .ch1Penergy := by decide
theorem test_decode_0100 : decode 0b0100#4 = .ok .ch1Nenergy := by decide
theorem test_decode_0101 : decode 0b0101#4 = .ok .ch1Pf := by decide
theorem test_decode_0110 : decode 0b0110#4 = .ok .ch1Freq := by decide
theorem test_decode_1000 : decode 0b1000#4 = .ok .ch2Voltage := by decide
theorem test_decode_1001 : decode 0b1001#4 = .ok .ch2Current := by decide
theorem test_decode_1010 : decode 0b1010#4 = .ok .ch2Power := by decide
theorem test_decode_1011 : decode 0b1011#4 = .ok .ch2Penergy := by decide
theorem test_decode_1100 : decode 0b1100#4 = .ok .ch2Nenergy := by decide
theorem test_decode_1101 : decode 0b1101#4 = .ok .ch2Pf := by decide
theorem test_decode_1110 : decode 0b1110#4 = .ok .ch2Freq := by decide
theorem test_decode_reserved :
    decode 0b0111#4 = .error (.reserved 0b0111#4) ∧ decode 0b1111#4 = .error (.reserved 0b1111#4) := by
  decide
theorem test_decode_wide_byte :
    decodeByte 0x10#8 = .error (.notASelectCode 0x10#8) ∧ decodeByte 0x0E#8 = .ok .ch2Freq := by decide
theorem test_decode_bytes :
    decodeBytes [0x09#8, 0x07#8] = some (.ok .ch2Current, [0x07#8]) ∧ decodeBytes [] = none := by decide
theorem test_decode_table_word :
    decodeTableWord 8 9 = some .ch2Current ∧ decodeTableWord 8 15 = none ∧
    decodeTableWord 8 16 = none ∧ decodeTableWord 16 256 = none := by decide

/-! ### Primitives: the vectors of 95_test_vectors.md part 2 -/

/-- V-U16-2 to V-U16-6. -/
theorem test_u16_vectors :
    u16 [(0, 0x01#8), (1, 0x2C#8)] 0 = some 300#16 ∧ u16 [(0, 0x00#8), (1, 0xFF#8)] 0 = some 255#16 ∧
    u16 [(0, 0xFF#8), (1, 0x00#8)] 0 = some 65280#16 ∧ u16 [(0, 0x80#8), (1, 0x00#8)] 0 = some 32768#16 ∧
    u16 [(38, 0xFF#8), (39, 0xFF#8)] 38 = some 65535#16 := by decide

/-- V-U32-2 to V-U32-6 and V-U32-9. -/
theorem test_u32_vectors :
    u32lw [(8, 0x00#8), (9, 0x01#8), (10, 0x00#8), (11, 0x00#8)] 8 = some 1#32 ∧
    u32lw [(8, 0x00#8), (9, 0x02#8), (10, 0x00#8), (11, 0x01#8)] 8 = some 65538#32 ∧
    u32lw [(8, 0xFF#8), (9, 0xFF#8), (10, 0x00#8), (11, 0x00#8)] 8 = some 65535#32 ∧
    u32lw [(8, 0x00#8), (9, 0x00#8), (10, 0x00#8), (11, 0x01#8)] 8 = some 65536#32 ∧
    u32lw [(8, 0x00#8), (9, 0x00#8), (10, 0x80#8), (11, 0x00#8)] 8 = some 2147483648#32 ∧
    u32lw [(8, 0x12#8), (9, 0x34#8), (10, 0x56#8), (11, 0x78#8)] 8 = some 1450709556#32 := by decide

/-- V-SIGN-2, 4, 6, 7, 8, 9 and 10 in the three modes. -/
theorem test_sign_vectors :
    [SignMode.zeroTest, .bit0, .sourceFormula].map (applySign · 150#16 1#16) = [-150, -150, -150] ∧
    [SignMode.zeroTest, .bit0, .sourceFormula].map (applySign · 0#16 1#16) = [0, 0, 0] ∧
    [SignMode.zeroTest, .bit0, .sourceFormula].map (applySign · 65535#16 1#16) = [-65535, -65535, -65535] ∧
    [SignMode.zeroTest, .bit0, .sourceFormula].map (applySign · 5#16 2#16) = [-5, 5, -15] ∧
    [SignMode.zeroTest, .bit0, .sourceFormula].map (applySign · 5#16 3#16) = [-5, -5, -25] ∧
    [SignMode.zeroTest, .bit0, .sourceFormula].map (applySign · 5#16 0x8000#16) = [-5, 5, -327675] ∧
    [SignMode.zeroTest, .bit0, .sourceFormula].map (applySign · 0xFFFF#16 0xFFFF#16) =
      [-65535, -65535, -8589606915] := by decide

/-- V-SCALE-1, 5 and 7, and R10: 100/1000 equals 10/100. -/
theorem test_scale_vectors :
    (scale .exact 2300 100).value = some 23 ∧ (scale .exact 1 1000).value = some (1 / 1000) ∧
    (scale .exact (-65535) 100).value = some (-65535 / 100) ∧
    (FieldValue.exact 100 1000).same (.exact 10 100) = true ∧
    (FieldValue.exact 0 1).same (.exact 0 1000) = true ∧
    (FieldValue.exact 1 100).same (.exact 1 1000) = false := by
  decide +kernel

/-- R67 and R25 at the extremes: 17 bits carry -65535, 34 bits carry -8589606915. -/
theorem test_port_widths :
    Status.bit .tooShort = 1#1 ∧ (numeratorBits .zeroTest .current (-65535)).toNat = 0x10001 ∧
    numeratorOfBits .sourceFormula .activePower (numeratorBits .sourceFormula .activePower (-8589606915)) =
      -8589606915 := by decide

/-! ### The field operations: vectors of 95_test_vectors.md, all other frame bytes 00 -/

/-- A frame of forty bytes, those listed and 00 elsewhere. -/
def testFrame (lanes : List (Nat × Byte)) : Frame :=
  Frame.ofBuffer ((List.range 40).map fun i => (Frame.read lanes i).getD 0#8)

/-- What one field operation writes from such a frame, under a SIGN_MODE. -/
def testField (mode : SignMode) (i : Instr) (lanes : List (Nat × Byte)) : Option FieldValue :=
  match exec i { State.reset with
      build := ⟨mode, .exact⟩, frame := testFrame lanes, len := 40 } with
  | .next t => t.out.get i.channel i.field
  | _ => none

/-- V-VOLT-1. -/
theorem test_ch1_voltage : testField .zeroTest .ch1Voltage [(0, 0x08#8), (1, 0xFC#8)] =
    some (.exact 2300 100) := by decide
/-- V-VOLT-3. -/
theorem test_ch1_voltage_max : testField .zeroTest .ch1Voltage [(0, 0xFF#8), (1, 0xFF#8)] =
    some (.exact 65535 100) := by decide
/-- V-VOLT-2. -/
theorem test_ch2_voltage : testField .zeroTest .ch2Voltage [(20, 0x08#8), (21, 0xFC#8)] =
    some (.exact 2300 100) := by decide
/-- V-CURR-2. -/
theorem test_ch1_current : testField .zeroTest .ch1Current [(3, 0x96#8), (7, 0x01#8)] =
    some (.exact (-150) 100) := by decide
/-- V-CURR-6 and R102's corner case m = 5, s = 2. -/
theorem test_ch1_current_sign_two :
    testField .zeroTest .ch1Current [(3, 0x05#8), (7, 0x02#8)] = some (.exact (-5) 100) ∧
    testField .bit0 .ch1Current [(3, 0x05#8), (7, 0x02#8)] = some (.exact 5 100) ∧
    testField .sourceFormula .ch1Current [(3, 0x05#8), (7, 0x02#8)] = some (.exact (-15) 100) := by
  decide
/-- V-CURR-3. -/
theorem test_ch2_current : testField .zeroTest .ch2Current [(22, 0x01#8), (23, 0x13#8), (27, 0x01#8)] =
    some (.exact (-275) 100) := by decide
/-- V-CURR-4: no negative zero. -/
theorem test_ch2_current_zero : testField .zeroTest .ch2Current [(27, 0x01#8)] =
    some (.exact 0 100) := by decide
/-- V-POW-1. -/
theorem test_ch1_power : testField .zeroTest .ch1Power [(4, 0x01#8), (5, 0x59#8)] =
    some (.exact 345 1) := by decide
/-- V-POW-5. -/
theorem test_ch1_power_min :
    testField .zeroTest .ch1Power [(4, 0xFF#8), (5, 0xFF#8), (7, 0x01#8)] =
      some (.exact (-65535) 1) := by decide
/-- V-POW-3. -/
theorem test_ch2_power : testField .zeroTest .ch2Power [(24, 0x02#8), (25, 0x64#8), (27, 0x01#8)] =
    some (.exact (-612) 1) := by decide
/-- V-PEN-2. -/
theorem test_ch1_penergy : testField .zeroTest .ch1Penergy [(8, 0xE2#8), (9, 0x40#8), (11, 0x01#8)] =
    some (.exact 123456 1000) := by decide
/-- V-PEN-5. -/
theorem test_ch1_penergy_unsigned : testField .zeroTest .ch1Penergy [(10, 0x80#8)] =
    some (.exact 2147483648 1000) := by decide
/-- V-PEN-3. -/
theorem test_ch2_penergy : testField .zeroTest .ch2Penergy [(28, 0x11#8), (29, 0x70#8), (31, 0x01#8)] =
    some (.exact 70000 1000) := by decide
/-- V-NEN-1. -/
theorem test_ch1_nenergy : testField .zeroTest .ch1Nenergy [(13, 0x02#8), (15, 0x01#8)] =
    some (.exact 65538 1000) := by decide
/-- V-NEN-4. -/
theorem test_ch2_nenergy : testField .zeroTest .ch2Nenergy [(35, 0x01#8)] =
    some (.exact 65536 1000) := by decide
/-- V-PF-3: above 1, unclamped. -/
theorem test_ch1_pf : testField .zeroTest .ch1Pf [(16, 0x03#8), (17, 0xE9#8)] =
    some (.exact 1001 1000) := by decide
/-- V-PF-4. -/
theorem test_ch2_pf : testField .zeroTest .ch2Pf [(36, 0xFF#8), (37, 0xFF#8)] =
    some (.exact 65535 1000) := by decide
/-- V-FREQ-1. -/
theorem test_ch1_freq : testField .zeroTest .ch1Freq [(18, 0x13#8), (19, 0x88#8)] =
    some (.exact 5000 100) := by decide
/-- V-FREQ-4: the last lane. -/
theorem test_ch2_freq : testField .zeroTest .ch2Freq [(39, 0x01#8)] =
    some (.exact 1 100) := by decide

/-! ### DECODE and READ -/

/-- Program P1's frame: the buffer of its "Encoding" line. -/
def testBuffer : List Byte :=
  [0x08#8, 0xFC#8, 0x00#8, 0x96#8, 0x01#8, 0x59#8, 0x00#8, 0x00#8, 0x13#8, 0x88#8,
   0x00#8, 0x00#8, 0x00#8, 0x00#8, 0x00#8, 0x00#8, 0x03#8, 0xD4#8, 0x13#8, 0x88#8] ++
  [0x09#8, 0x06#8, 0x01#8, 0x13#8, 0x02#8, 0x64#8, 0x00#8, 0x01#8, 0x11#8, 0x70#8,
   0x00#8, 0x01#8, 0xE2#8, 0x40#8, 0x00#8, 0x01#8, 0x03#8, 0xE8#8, 0x13#8, 0x86#8]

/-- P1's record. -/
def testRecord : TelemetryRecord FieldValue where
  ch1 := ⟨.exact 2300 100, .exact 150 100, .exact 345 1, .exact 5000 1000, .exact 0 1000,
    .exact 980 1000, .exact 5000 100⟩
  ch2 := ⟨.exact 2310 100, .exact (-275) 100, .exact (-612) 1, .exact 70000 1000, .exact 123456 1000,
    .exact 1000 1000, .exact 4998 100⟩

/-- P1's record from the bytes of its encoding. -/
theorem test_decode_function_p1 :
    decodeFunction Build.default (Frame.ofBuffer testBuffer) 40 = (.ok, some testRecord) := by decide

/-- V-LEN-4 and V-LEN-7: 39 bytes are too short, four more than forty are not read. -/
theorem test_decode_function_lengths :
    decodeFunction Build.default (Frame.ofBuffer (testBuffer.take 39)) 39 = (.tooShort, none) ∧
    decodeFunction Build.default (Frame.ofBuffer (testBuffer ++ List.replicate 4 0xFF#8)) 44 =
      (.ok, some testRecord) := by decide

/-- P1's REGS statement expands to its encoding. -/
theorem test_regs_p1 :
    regsBytes [.reg 2300#16, .reg 150#16, .reg 345#16, .reg 0#16, .w32 5000#32, .w32 0#32, .reg 980#16,
      .reg 5000#16, .reg 2310#16, .reg 275#16, .reg 612#16, .reg 1#16, .w32 70000#32, .w32 123456#32,
      .reg 1000#16, .reg 4998#16] = testBuffer := by decide

/-- The state a step leads to, if it leads to one. -/
def nextState (s : State) : Option State :=
  match step s with
  | .next t => some t
  | _ => none

/-- P1's frame presented, the host about to act. -/
def testReady (cmd : HostCmd) : State :=
  { State.reset with frame := Frame.ofBuffer testBuffer, len := 40, script := [cmd] }

/-- The same after its DECODE. -/
def testDone (cmd : HostCmd) : State :=
  { testReady cmd with status := some .ok, record := some testRecord }

/-- A DECODE of P1's frame with all its operations before it. -/
def testRunning : State := { testReady .decode with script := [], todo := selectCodes }

/-- V-READ-1: no DECODE yet. -/
theorem test_read_before_decode :
    (nextState (testReady (.read 0x0#4))).map State.response = some (some .noRecord) := by decide
/-- P1: `READ CH2.CURRENT` is (-275, 100). -/
theorem test_read_ch2_current :
    (nextState (testDone (.read 0x9#4))).map State.response =
      some (some (.value (.exact (-275) 100))) := by decide
/-- V-READ-5 and V-READ-6. -/
theorem test_read_reserved :
    (nextState (testDone (.read 0x7#4))).map State.response = some (some .reservedSelect) ∧
    (nextState (testDone (.read 0xF#4))).map State.response = some (some .reservedSelect) := by decide
/-- V-LEN-4, V-READ-7: after an OK record, a short DECODE leaves none. -/
theorem test_short_decode_drops_record :
    (nextState { testDone .decode with len := 39 }).map (fun t => (t.status, t.record, t.todo)) =
      some (some .tooShort, none, []) := by decide
/-- R175: a long enough DECODE leaves no output until it completes. -/
theorem test_decode_starts :
    (nextState (testDone .decode)).map (fun t => (t.status, t.record, t.todo.length)) =
      some (none, none, 14) := by decide
/-- R66: a reserved code among those of a transaction is refused by name. -/
theorem test_reserved_code_stops : nextState { testRunning with todo := [0x7#4] } = none := by decide
/-- The host's placing of a code at reset: the very next step runs it. -/
theorem test_placed_code_runs :
    (nextState (State.reset.withFetchWord 8 9)).map (fun t => t.out.ch2.current) =
      some (some (.exact 0 100)) := by decide

/-! ### The text of a script (R69) -/

theorem test_script_regs :
    parseLine ("REGS 2300 0x10 W32:0x80000001 ; comment").toList =
      .ok (some (.regs [.reg 2300#16, .reg 16#16, .w32 0x80000001#32])) := by decide
theorem test_script_frame :
    parseLine ("FRAME 0x08 0xFC 0").toList = .ok (some (.frame [0x08#8, 0xFC#8, 0#8])) ∧
    parseLine ("FRAME 256").toList = .error .tooLarge := by decide
theorem test_script_read :
    parseLine ("READ CH2.POWER").toList = .ok (some (.read 0xA#4)) ∧
    parseLine ("READ 0x7").toList = .ok (some (.read 0x7#4)) := by decide
theorem test_script_expect :
    parseLine ("EXPECT STATUS=TOO_SHORT").toList = .ok (some (.expectStatus .tooShort)) ∧
    parseLine ("EXPECT CH2.CURRENT=-275/100").toList = .ok (some (.expectField .ch2Current (-275) 100)) ∧
    parseLine ("; P1").toList = .ok none := by decide

theorem test_expectation :
    (testDone .decode).meets (.expectField .ch1Voltage 23 1) = true ∧
    (testDone .decode).meets (.expectStatus .tooShort) = false ∧
    (testReady .decode).meets (.expectField .ch1Voltage 23 1) = false := by decide +kernel

/-- Log entry 15: `0/0` and `5/0` hold of no field, also of one that is 0 (CH1.NENERGY here). -/
theorem test_expectation_over_zero :
    (testDone .decode).meets (.expectField .ch1Nenergy 0 0) = false ∧
    (testDone .decode).meets (.expectField .ch1Nenergy 5 0) = false ∧
    (testDone .decode).meets (.expectField .ch1Nenergy 0 1) = true := by decide +kernel

/-! ### Witnesses: for each obligation with hypotheses, an input that meets them all -/

theorem testFrame_whole : (Frame.ofBuffer testBuffer).Whole := by
  intro i hi
  exact Frame.read_isSome (by rw [Frame.lanes_ofBuffer]; simpa [testBuffer] using hi)

theorem testRunning_inv : testRunning.Inv where
  frame_wf := Frame.wf_ofBuffer _
  frame_presented := Frame.lanes_ofBuffer _
  checked := fun _ => rfl
  silent := fun _ => ⟨rfl, rfl⟩
  record_iff_ok := by decide
  unwritten := fun h => by cases h
  codes := fun sel h => by
    have : ∀ sel : Sel, sel ∈ selectCodes → (decode sel).toOption.isSome = true := by decide
    have := this sel h
    revert this
    cases decode sel with
    | ok i => exact fun _ => ⟨i, rfl⟩
    | error e => exact fun h => by cases h
  due := fun _ i => .inl (by cases i <;> decide)
  right := fun i v h => by
    have : testRunning.out.get i.channel i.field = none := TelemetryRecord.get_unwritten _ _
    rw [this] at h; cases h

theorem witness_SelectCodesFollowTheTable :
    decode 0xE#4 = .ok .ch2Freq ∧ BitVec.getLsbD 0xE#4 3 = true ∧ decode 0x0#4 = .ok .ch1Voltage ∧
    BitVec.getLsbD 0x0#4 3 = false := by decide
theorem witness_DecodeAndEncodeAgree :
    decode 0xE#4 = .ok .ch2Freq ∧ decodeByte 0x0E#8 = .ok .ch2Freq ∧
    decode 0xF#4 = .error (.reserved 0xF#4) := by decide
theorem witness_ReservedReadIsRefused :
    (testReady (.read 0x7#4)).todo = [] ∧ (testReady (.read 0x7#4)).script = .read 0x7#4 :: [] ∧
    (testReady (.read 0xF#4)).script = .read 0xF#4 :: [] := by decide
theorem witness_ReservedCodeInTransactionStops :
    ({ testRunning with todo := [0xF#4] } : State).todo = 0xF#4 :: [] ∧
    ({ testRunning with todo := [0x7#4] } : State).todo = 0x7#4 :: [] := by decide
theorem witness_U16IsBigEndian :
    (Frame.ofBuffer testBuffer).read 38 = some 0x13#8 ∧
    (Frame.ofBuffer testBuffer).read (38 + 1) = some 0x86#8 := by decide
theorem witness_U32IsLowWordFirst :
    (Frame.ofBuffer testBuffer).read 32 = some 0xE2#8 ∧
    (Frame.ofBuffer testBuffer).read (32 + 1) = some 0x40#8 ∧
    (Frame.ofBuffer testBuffer).read (32 + 2) = some 0x00#8 ∧
    (Frame.ofBuffer testBuffer).read (32 + 3) = some 0x01#8 := by decide
theorem witness_RegisterViewOfFrame :
    (Frame.ofBuffer testBuffer).read (2 * (19 : Fin 20).val) = some 0x13#8 ∧
    (Frame.ofBuffer testBuffer).read (2 * (19 : Fin 20).val + 1) = some 0x86#8 := by decide
theorem witness_ApplySignModes :
    (1#16).getLsbD 0 = true ∧ (2#16).getLsbD 0 = false ∧ (1#16 ≠ 0#16) ∧
    SignMode.bit0 ≠ .sourceFormula := by decide
theorem witness_ScaleIsExactDivision : (1000 : Nat) = 1 ∨ (1000 : Nat) = 100 ∨ (1000 : Nat) = 1000 := by
  decide
theorem witness_FieldEqualityIsOfRationals : 0 < (100 : Nat) ∧ 0 < (1000 : Nat) := by decide
theorem witness_NumeratorsFitTheirWidths :
    Build.default.outRepr = .exact ∧ Build.default.signMode ≠ .sourceFormula ∧
    valueOf .ch2Current Build.default (Frame.ofBuffer testBuffer) = some (.exact (-275) 100) ∧
    signedField Instr.ch2Current.field = true ∧
    valueOf .ch2Freq Build.default (Frame.ofBuffer testBuffer) = some (.exact 4998 100) ∧
    signedField Instr.ch2Freq.field = false := by decide

/-- P1's frame meets the hypotheses of each field rule: LEN is 40 and every lane carries a byte; and a state
with LEN 39 meets those of their last clause. -/
theorem witness_FieldRules :
    40 ≤ testRunning.len ∧
    (∀ i ∈ List.range 40, (testRunning.frame.read i).isSome = true) ∧
    testRunning.build.signMode ≠ .sourceFormula ∧ ({ testRunning with len := 39 } : State).len < 40 := by
  decide
/-- The two clauses of a voltage rule at their boundary: LEN 40 writes, LEN 39 does not. -/
theorem witness_VoltageRules :
    testRunning.frame.read 20 = some 0x09#8 ∧ testRunning.frame.read (20 + 1) = some 0x06#8 ∧
    testRunning.frame.read 0 = some 0x08#8 ∧ testRunning.frame.read (0 + 1) = some 0xFC#8 := by decide
theorem witness_CurrentRules :
    testRunning.frame.read 2 = some 0x00#8 ∧ testRunning.frame.read (2 + 1) = some 0x96#8 ∧
    testRunning.frame.read 6 = some 0x00#8 ∧ testRunning.frame.read (6 + 1) = some 0x00#8 ∧
    testRunning.frame.read 22 = some 0x01#8 ∧ testRunning.frame.read (22 + 1) = some 0x13#8 ∧
    testRunning.frame.read 26 = some 0x00#8 ∧ testRunning.frame.read (26 + 1) = some 0x01#8 := by decide
theorem witness_PowerRules :
    testRunning.frame.read 4 = some 0x01#8 ∧ testRunning.frame.read (4 + 1) = some 0x59#8 ∧
    testRunning.frame.read 6 = some 0x00#8 ∧ testRunning.frame.read (6 + 1) = some 0x00#8 ∧
    testRunning.frame.read 24 = some 0x02#8 ∧ testRunning.frame.read (24 + 1) = some 0x64#8 ∧
    testRunning.frame.read 26 = some 0x00#8 ∧ testRunning.frame.read (26 + 1) = some 0x01#8 := by decide
theorem witness_PositiveEnergyRules :
    testRunning.frame.read 8 = some 0x13#8 ∧ testRunning.frame.read (8 + 1) = some 0x88#8 ∧
    testRunning.frame.read (8 + 2) = some 0x00#8 ∧ testRunning.frame.read (8 + 3) = some 0x00#8 ∧
    testRunning.frame.read 28 = some 0x11#8 ∧ testRunning.frame.read (28 + 1) = some 0x70#8 ∧
    testRunning.frame.read (28 + 2) = some 0x00#8 ∧ testRunning.frame.read (28 + 3) = some 0x01#8 := by
  decide
theorem witness_NegativeEnergyRules :
    testRunning.frame.read 12 = some 0x00#8 ∧ testRunning.frame.read (12 + 1) = some 0x00#8 ∧
    testRunning.frame.read (12 + 2) = some 0x00#8 ∧ testRunning.frame.read (12 + 3) = some 0x00#8 ∧
    testRunning.frame.read 32 = some 0xE2#8 ∧ testRunning.frame.read (32 + 1) = some 0x40#8 ∧
    testRunning.frame.read (32 + 2) = some 0x00#8 ∧ testRunning.frame.read (32 + 3) = some 0x01#8 := by
  decide
theorem witness_PowerFactorRules :
    testRunning.frame.read 16 = some 0x03#8 ∧ testRunning.frame.read (16 + 1) = some 0xD4#8 ∧
    testRunning.frame.read 36 = some 0x03#8 ∧ testRunning.frame.read (36 + 1) = some 0xE8#8 := by decide
theorem witness_FrequencyRules :
    testRunning.frame.read 18 = some 0x13#8 ∧ testRunning.frame.read (18 + 1) = some 0x88#8 ∧
    testRunning.frame.read 38 = some 0x13#8 ∧ testRunning.frame.read (38 + 1) = some 0x86#8 := by decide
theorem witness_AbsentLaneStopsFieldOperation :
    40 ≤ ({ testRunning with frame := [(0, 0x08#8)] } : State).len ∧
    1 ∈ lanesOf Instr.ch1Voltage.schema.format ∧ Frame.read [(0, 0x08#8)] 1 = none := by decide
theorem witness_FieldOperationFrame :
    exec .ch1Voltage testRunning =
      .next (testRunning.writeOut .ch1 .voltage (.exact 2300 100)) := by rfl
theorem witness_FieldOperationsCommute :
    exec .ch1Voltage testRunning = .next (testRunning.writeOut .ch1 .voltage (.exact 2300 100)) ∧
    exec .ch2Voltage (testRunning.writeOut .ch1 .voltage (.exact 2300 100)) =
      .next ((testRunning.writeOut .ch1 .voltage (.exact 2300 100)).writeOut .ch2 .voltage
        (.exact 2310 100)) := ⟨rfl, rfl⟩
/-- A second state whose lanes differ in channel 2 only. -/
theorem witness_ChannelsAreIndependent :
    testRunning.build = ({ testRunning with frame := testFrame ((Frame.ofBuffer testBuffer).take 20) } : State).build ∧
    40 ≤ testRunning.len ∧
    (∀ o ∈ List.range 20, testRunning.frame.read o =
      Frame.read (testFrame ((Frame.ofBuffer testBuffer).take 20)) o) ∧
    testRunning.frame.read 20 ≠ Frame.read (testFrame ((Frame.ofBuffer testBuffer).take 20)) 20 ∧
    exec .ch1Voltage testRunning = .next (testRunning.writeOut .ch1 .voltage (.exact 2300 100)) :=
  ⟨rfl, by decide, by decide, by decide, rfl⟩
/-- The first half of P1's frame, twice. -/
theorem witness_SecondLaneReadsTwentyHigher :
    Instr.ch1Voltage.channel = .ch1 ∧ Instr.ch2Voltage.channel = .ch2 ∧
    Instr.ch1Voltage.field = Instr.ch2Voltage.field ∧
    40 ≤ testRunning.len ∧
    (∀ o ∈ List.range 20, Frame.read (Frame.ofBuffer (testBuffer.take 20 ++ testBuffer.take 20)) (o + 20) =
      testRunning.frame.read o) ∧
    exec .ch1Voltage testRunning = .next (testRunning.writeOut .ch1 .voltage (.exact 2300 100)) :=
  ⟨rfl, rfl, rfl, by decide, by decide, rfl⟩
theorem witness_StepRunsDecodedOperation :
    testRunning.todo = 0x0#4 :: selectCodes.tail ∧ decode 0x0#4 = .ok .ch1Voltage ∧
    selectCodes.tail ≠ [] ∧
    exec .ch1Voltage testRunning = .next (testRunning.writeOut .ch1 .voltage (.exact 2300 100)) :=
  ⟨rfl, by decide, by decide, rfl⟩
/-- The three other clauses: an absent lane, a last operation that completes the record, and a last
operation that leaves it incomplete. -/
theorem witness_StepRunsDecodedOperation_ends :
    exec .ch1Voltage { testRunning with frame := [] } = .fault .absentByte ∧
    (TelemetryRecord.unwritten.set .ch1 .voltage (some (.exact 2300 100))).complete = none ∧
    ((⟨⟨none, some (.exact 0 100), some (.exact 0 1), some (.exact 0 1000), some (.exact 0 1000),
        some (.exact 0 1000), some (.exact 0 100)⟩,
      ⟨some (.exact 0 100), some (.exact 0 100), some (.exact 0 1), some (.exact 0 1000),
        some (.exact 0 1000), some (.exact 0 1000), some (.exact 0 100)⟩⟩ :
      TelemetryRecord (Option FieldValue)).set .ch1 .voltage (some (.exact 2300 100))).complete.isSome =
        true := ⟨rfl, by decide, by decide⟩
theorem witness_LongEnoughDecodeStarts :
    (testReady .decode).todo = [] ∧ (testReady .decode).script = .decode :: [] ∧
    40 ≤ (testReady .decode).len := by decide
theorem witness_ShortDecodeReportsTooShort :
    ({ testReady .decode with len := 39 } : State).todo = [] ∧
    ({ testReady .decode with len := 39 } : State).script = .decode :: [] ∧
    ({ testReady .decode with len := 39 } : State).len < 40 ∧
    ({ testReady .decode with len := 39 } : State).status ≠ some .tooShort ∧
    (nextState { testReady .decode with len := 39 }).map State.status = some (some .tooShort) := by decide
theorem witness_DecodeRunComputesTheRecord :
    (testReady .decode).todo = [] ∧ (testReady .decode).script = .decode :: [] ∧
    40 ≤ (testReady .decode).len ∧ (testReady .decode).frame.Whole ∧
    ({ testReady .decode with len := 39 } : State).len < 40 :=
  ⟨rfl, rfl, by decide, testFrame_whole, by decide⟩
theorem witness_RecordFromFortyBytes :
    ∃ x : Nat → Nat, ∀ i, i < 40 →
      ∃ y : Byte, (Frame.ofBuffer testBuffer).read i = some y ∧ y.toNat = x i :=
  ⟨fun i => (((Frame.ofBuffer testBuffer).read i).getD 0#8).toNat, fun i hi => by
    obtain ⟨y, hy⟩ := testFrame_whole i hi
    exact ⟨y, hy, by simp [hy]⟩⟩
/-- A fresh state, and one that has decoded before, both about to DECODE: LEN 40 with the frame whole, and
LEN 39, the two sides of 40. -/
theorem witness_DecodeForgetsHistory :
    (testReady .decode).todo = [] ∧ (testDone .decode).todo = [] ∧
    (testReady .decode).script = .decode :: [] ∧ (testDone .decode).script = .decode :: [] ∧
    (testReady .decode).build = (testDone .decode).build ∧
    (testReady .decode).frame = (testDone .decode).frame ∧
    40 ≤ (testReady .decode).len ∧ 40 ≤ (testDone .decode).len ∧ (testReady .decode).frame.Whole ∧
    ({ testReady .decode with len := 39 } : State).todo = [] ∧
    ({ testDone .decode with len := 39 } : State).todo = [] ∧
    ({ testReady .decode with len := 39 } : State).script = .decode :: [] ∧
    ({ testDone .decode with len := 39 } : State).script = .decode :: [] ∧
    ({ testReady .decode with len := 39 } : State).build =
      ({ testDone .decode with len := 39 } : State).build ∧
    ({ testReady .decode with len := 39 } : State).frame =
      ({ testDone .decode with len := 39 } : State).frame ∧
    ¬ 40 ≤ ({ testReady .decode with len := 39 } : State).len ∧
    ¬ 40 ≤ ({ testDone .decode with len := 39 } : State).len :=
  ⟨rfl, rfl, rfl, rfl, rfl, rfl, by decide, by decide, testFrame_whole, rfl, rfl, rfl, rfl, rfl, rfl,
    by decide, by decide⟩
theorem witness_EveryDecodeCompletes : testRunning.Inv ∧ testRunning.todo ≠ [] :=
  ⟨testRunning_inv, by decide⟩
theorem witness_ReadAnswersTheSelectedField :
    (testDone (.read 0xE#4)).todo = [] ∧ (testDone (.read 0xE#4)).script = .read 0xE#4 :: [] ∧
    (testDone (.read 0xE#4)).status = some .ok ∧ (testDone (.read 0xE#4)).record = some testRecord ∧
    (testReady (.read 0x0#4)).status ≠ some .ok ∧
    (testReady (.read 0x7#4)).script = .read 0x7#4 :: [] := by decide
theorem witness_PresentDrivesTheLanes :
    (testReady (.frame testBuffer)).todo = [] ∧
    (testReady (.frame testBuffer)).script = .frame testBuffer :: [] := by decide
theorem witness_LongBufferDecodesAsFirstForty :
    40 ≤ (testBuffer ++ [0xFF#8]).length ∧ 40 ≤ testBuffer.length := by decide
theorem witness_RegsExpandToRegisters :
    (regsBytes (List.replicate 19 (.reg 0#16))).length + 2 ≤ 40 ∧
    (regsBytes (List.replicate 9 (.w32 0#32))).length + 4 ≤ 40 := by decide
theorem witness_ExpectAndIdleHaveNoEffect :
    State.reset.todo = [] ∧ State.reset.script = [] ∧
    (testReady (.expectStatus .ok)).script = .expectStatus .ok :: [] ∧
    (testReady (.expectField .ch1Pf 1 1)).script = .expectField .ch1Pf 1 1 :: [] := by decide
theorem witness_OutputsHeldBetweenDecodes :
    nextState (testDone (.read 0x0#4)) ≠ none ∧ (testDone (.read 0x0#4)).todo = [] ∧
    testRunning.Inv ∧ (nextState testRunning).map (fun t => t.todo.length) = some 13 :=
  ⟨by decide, by decide, testRunning_inv, by decide⟩
theorem witness_OnlyTheHostChangesTheInputs :
    nextState testRunning ≠ none ∧ testRunning.todo ≠ [] ∧ testRunning.script = [] := by decide
theorem witness_StepKeepsTheInvariant : testRunning.Inv ∧ nextState testRunning ≠ none :=
  ⟨testRunning_inv, by decide⟩
theorem witness_InvariantStatesNeverStop : testRunning.Inv := testRunning_inv
theorem witness_ResetHoldsNoOutputs : 0xE#4 ≠ 0x7#4 ∧ 0xE#4 ≠ 0xF#4 := by decide

end Sys2Proof.Machine
end

section
/-! The scope of a field: when two fields are equal (R10), and what a field operation leaves alone (R9, R45). -/

namespace Sys2Proof.Machine

/-- Two exact fields over denominators other than 0 are equal when the rationals they stand for are (R10). -/
theorem FieldValue.same_exact_iff {n n' : Int} {d d' : Nat} (hd : d ≠ 0) (hd' : d' ≠ 0) :
    (FieldValue.exact n d).same (.exact n' d') = true ↔ (n : Rat) / (d : Rat) = (n' : Rat) / (d' : Rat) := by
  simp [FieldValue.same, FieldValue.value_exact hd, FieldValue.value_exact hd']

/-- Settles O11: both denominators are nonzero rationals, so the equation of the quotients multiplies out, and
the resulting equation of rationals is one of integers. -/
theorem fieldEqualityIsOfRationals : Obligations.FieldEqualityIsOfRationals := by
  intro n n' d d' hd hd'
  have hq : (d : Rat) ≠ 0 := Nat.cast_ne_zero.2 hd.ne'
  have hq' : (d' : Rat) ≠ 0 := Nat.cast_ne_zero.2 hd'.ne'
  calc (FieldValue.exact n d).same (.exact n' d') = true
      ↔ (n : Rat) / d = (n' : Rat) / d' := FieldValue.same_exact_iff hd.ne' hd'.ne'
    _ ↔ (n : Rat) * d' = (n' : Rat) * d := div_eq_div_iff hq hq'
    _ ↔ n * (d' : Int) = n' * (d : Int) := by norm_cast

/-- Writing one output field leaves every other output field alone. -/
theorem State.writeOut_get_other {s : State} {ch ch' : Channel} {f f' : FieldName} (v : FieldValue)
    (h : (ch', f') ≠ (ch, f)) : (s.writeOut ch f v).out.get ch' f' = s.out.get ch' f' :=
  TelemetryRecord.get_set_other s.out (some v) h

/-- Settles O21, from the two things an operation can do: with LEN below 40 it answers the state as it is, and
else it writes its own output field. -/
theorem fieldOperationFrame : Obligations.FieldOperationFrame := by
  intro i s t h
  obtain ⟨-, rfl⟩ | ⟨-, v, -, rfl⟩ := exec_cases h
  case inl => simp
  case inr =>
    have hout : ∀ ch f, (ch, f) ≠ (i.channel, i.field) →
        (s.writeOut i.channel i.field v).out.get ch f = s.out.get ch f :=
      fun _ _ => State.writeOut_get_other v
    simpa using hout

end Sys2Proof.Machine
end

section
/-! Every step keeps the invariant of runs (R20, R22, R25, R66, R81, R82, R175): the operations the step is
made of keep it one by one, and so does the step. -/

namespace Sys2Proof.Machine

/-- The code of an operation is decoded as that operation (R65). -/
@[simp] theorem decode_encode (i : Instr) : decode (encode i) = .ok i := by
  cases i <;> rfl

/-- The operations of a channel differ in their field (R60, R65). -/
theorem Instr.eq_of_channel_field {i j : Instr} (hc : i.channel = j.channel) (hf : i.field = j.field) :
    i = j := by
  have henc : encode i = encode j := by simp only [encode, hc, hf]
  have hdec : (.ok i : Except Reject Instr) = .ok j := by rw [← decode_encode i, henc, decode_encode]
  exact Except.ok.inj hdec

/-- Every operation stands among those of a DECODE (R80). -/
theorem encode_mem_selectCodes (i : Instr) : encode i ∈ selectCodes := by
  cases i <;> decide

/-- No reserved code stands among those of a DECODE (R66). -/
theorem exists_decode_of_mem_selectCodes {sel : Sel} (h : sel ∈ selectCodes) :
    ∃ i, decode sel = .ok i := by
  have hall : ∀ sel ∈ selectCodes, (decode sel).toOption.isSome = true := by decide
  cases hd : decode sel with
  | ok i => exact ⟨i, rfl⟩
  | error r => simpa [hd, Except.toOption] using hall sel h

/-! ### Between transactions -/

/-- Between transactions the invariant says four things: the frame is canonical, it carries the delivered
bytes, nothing of a transaction is kept, and REC is valid exactly when STATUS is OK. -/
theorem State.Inv.of_idle {s : State} (hwf : s.frame.wf = true)
    (hlanes : s.frame.map Prod.fst = List.range (min s.len Config.frameBytes)) (htodo : s.todo = [])
    (hout : s.out = .unwritten) (hrec : s.status = some .ok ↔ s.record.isSome = true) : s.Inv where
  frame_wf := hwf
  frame_presented := hlanes
  checked := fun h => absurd htodo h
  silent := fun h => absurd htodo h
  record_iff_ok := hrec
  unwritten := fun _ => hout
  codes := by simp [htodo]
  due := fun h => absurd htodo h
  right := by simp [hout]

/-- Giving out the outputs keeps the invariant, also where a field is unwritten: then neither has a value. -/
theorem State.Inv.commit {s : State} (h : s.Inv) : s.commit.Inv := by
  refine .of_idle (by simpa using h.frame_wf) (by simpa using h.frame_presented) (by simp) (by simp) ?_
  cases hc : s.out.complete with
  | some r => simp [State.commit_of_complete hc]
  | none => simp [State.commit_of_incomplete hc]

/-! ### The running transaction -/

/-- A running transaction's operation keeps the invariant: it writes the value its rule gives, over no field
of another operation. -/
theorem State.Inv.writeOut {s : State} {i : Instr} {v : FieldValue} (h : s.Inv) (hrun : s.todo ≠ [])
    (hv : valueOf i s.build s.frame = some v) : (s.writeOut i.channel i.field v).Inv where
  frame_wf := h.frame_wf
  frame_presented := h.frame_presented
  checked := h.checked
  silent := h.silent
  record_iff_ok := h.record_iff_ok
  unwritten := fun htodo => absurd htodo hrun
  codes := h.codes
  due := fun _ j => by
    by_cases hj : (j.channel, j.field) = (i.channel, i.field)
    · obtain ⟨hc, hf⟩ := Prod.mk.inj hj
      simp [hc, hf]
    · rw [State.writeOut_get_other v hj]
      exact h.due hrun j
  right := fun j w hw => by
    by_cases hj : (j.channel, j.field) = (i.channel, i.field)
    · obtain ⟨hc, hf⟩ := Prod.mk.inj hj
      obtain rfl := Instr.eq_of_channel_field hc hf
      obtain rfl : v = w := by simpa using hw
      exact hv
    · rw [State.writeOut_get_other v hj] at hw
      exact h.right j w hw

/-- Taking the first code off the list keeps the invariant once its operation's field is written. -/
theorem State.Inv.advance {s : State} {sel : Sel} {rest : List Sel} {i : Instr} (h : s.Inv)
    (htodo : s.todo = sel :: rest) (hd : decode sel = .ok i)
    (hw : (s.out.get i.channel i.field).isSome = true) : s.advance.Inv := by
  have hrun : s.todo ≠ [] := by simp [htodo]
  cases rest with
  | nil => rw [State.advance_last htodo]; exact h.commit
  | cons next rest =>
    have hdue : ∀ j : Instr, encode j ∈ next :: rest ∨ (s.out.get j.channel j.field).isSome = true := by
      intro j
      rcases h.due hrun j with hj | hj
      · rw [htodo] at hj
        rcases List.mem_cons.1 hj with rfl | hj
        · obtain rfl : j = i := by simpa using hd
          exact .inr hw
        · exact .inl hj
      · exact .inr hj
    rw [State.advance_more htodo]
    exact {
      frame_wf := h.frame_wf
      frame_presented := h.frame_presented
      checked := fun _ => h.checked hrun
      silent := fun _ => h.silent hrun
      record_iff_ok := h.record_iff_ok
      unwritten := fun hnil => by cases hnil
      codes := fun sel' hmem => h.codes sel' (htodo ▸ List.mem_cons_of_mem sel hmem)
      due := fun _ => hdue
      right := h.right }

/-! ### The host's actions -/

/-- Presenting a buffer between transactions keeps the invariant. -/
theorem State.Inv.present {s : State} (h : s.Inv) (htodo : s.todo = []) (bytes : List Byte) :
    (s.present bytes).Inv :=
  .of_idle (Frame.wf_ofBuffer bytes) (Frame.lanes_ofBuffer bytes) htodo (h.unwritten htodo) h.record_iff_ok

/-- Starting a DECODE keeps the invariant, on both sides of the length check. -/
theorem State.Inv.startDecode {s : State} (h : s.Inv) : s.startDecode.Inv := by
  rcases Nat.lt_or_ge s.len 40 with hl | hl
  · rw [State.startDecode_of_short hl]
    exact .of_idle h.frame_wf h.frame_presented rfl rfl (by simp)
  · rw [State.startDecode_of_full hl]
    exact {
      frame_wf := h.frame_wf
      frame_presented := h.frame_presented
      checked := fun _ => s.full_iff.2 hl
      silent := fun _ => ⟨rfl, rfl⟩
      record_iff_ok := by simp
      unwritten := fun hnil => by cases hnil
      codes := fun _ => exists_decode_of_mem_selectCodes
      due := fun _ i => .inl (encode_mem_selectCodes i)
      right := by simp }

/-- Every action of the host between transactions keeps the invariant. -/
theorem State.Inv.hostAction {s : State} (h : s.Inv) (htodo : s.todo = []) (cmd : HostCmd) :
    (s.hostAction cmd).Inv :=
  match cmd with
  | .frame bytes => h.present htodo bytes
  | .decode => h.startDecode
  | .read _ => .of_idle h.frame_wf h.frame_presented htodo (h.unwritten htodo) h.record_iff_ok
  | .expectStatus _ => h
  | .expectField _ _ _ => h

/-- The invariant says nothing of the script. -/
theorem State.Inv.nextStatement {s : State} (h : s.Inv) (rest : List HostCmd) : (s.nextStatement rest).Inv :=
  { h with }

/-! ### The step -/

/-- Settles O39, from what a step can do: a running transaction's operation writes its field and leaves the
list, or the host acts, or nothing happens. -/
theorem stepKeepsTheInvariant : Obligations.StepKeepsTheInvariant := by
  intro s t h hstep
  obtain ⟨sel, rest, i, u, htodo, hd, hu, rfl⟩ | ⟨cmd, rest, htodo, -, rfl⟩ | ⟨-, -, rfl⟩ :=
    step_cases hstep
  · have hrun : s.todo ≠ [] := by simp [htodo]
    have hfull : 40 ≤ s.len := s.full_iff.1 (h.checked hrun)
    obtain ⟨hshort, -⟩ | ⟨-, v, hv, rfl⟩ := exec_cases hu
    · omega
    · exact (h.writeOut hrun hv).advance htodo hd (by simp)
  · exact (h.nextStatement rest).hostAction htodo cmd
  · exact h

end Sys2Proof.Machine
end

section
/-! The inputs (R21, R22, R23, R28): the register view of the frame, what presenting a buffer drives, and that
nothing else drives the inputs. -/

namespace Sys2Proof.Machine

/-- Settles O8: a register is the U16 at its byte offset. -/
theorem registerViewOfFrame : Obligations.RegisterViewOfFrame := by
  intro m k hi lo hhi hlo
  refine ⟨_, u16_of_read hhi hlo, ?_⟩
  have hhiLt := hi.isLt
  have hloLt := lo.isLt
  simp only [BitVec.toNat_ofNat]
  omega

/-- Settles O33: the step performs the host's FRAME, and the lanes are those of the presented buffer. -/
theorem presentDrivesTheLanes : Obligations.PresentDrivesTheLanes := fun _ bytes _ htodo hscript =>
  ⟨Frame.ofBuffer bytes, step_of_host htodo hscript, Frame.wf_ofBuffer bytes, Frame.read_ofBuffer bytes⟩

/-- No action of the host changes the build-time parameters (R28). -/
@[simp] theorem State.hostAction_build (s : State) (cmd : HostCmd) : (s.hostAction cmd).build = s.build := by
  cases cmd <;> simp [State.hostAction]

/-- Every action of the host but FRAME keeps the inputs. -/
theorem State.hostAction_inputs {s : State} {cmd : HostCmd} (h : ∀ bytes, cmd ≠ .frame bytes) :
    (s.hostAction cmd).frame = s.frame ∧ (s.hostAction cmd).len = s.len := by
  cases cmd with
  | frame bytes => exact absurd rfl (h bytes)
  | _ => simp [State.hostAction]

/-- A field operation keeps the build-time parameters and the inputs. -/
theorem exec_inputs {i : Instr} {s t : State} (h : exec i s = .next t) :
    t.build = s.build ∧ t.frame = s.frame ∧ t.len = s.len := by
  obtain ⟨hbuild, hframe, hlen, -⟩ := fieldOperationFrame i s t h
  exact ⟨hbuild, hframe, hlen⟩

/-- Settles O38, from what a step can do: only an action of the host, taken with no transaction running, can
change an input, and among those only FRAME does. -/
theorem onlyTheHostChangesTheInputs : Obligations.OnlyTheHostChangesTheInputs := by
  intro s t hstep
  obtain ⟨_, _, i, u, -, -, hu, rfl⟩ | ⟨cmd, rest, htodo, hscript, rfl⟩ | ⟨-, -, rfl⟩ := step_cases hstep
  · obtain ⟨hbuild, hframe, hlen⟩ := exec_inputs hu
    simp [hbuild, hframe, hlen]
  · refine ⟨by simp, fun hrun => absurd htodo hrun, fun hcmd => ?_⟩
    refine State.hostAction_inputs (s := s.nextStatement rest) fun bytes hc => ?_
    exact hcmd bytes rest (hc ▸ hscript)
  · simp

end Sys2Proof.Machine
end

section
/-! An operation that would read a lane with no byte has no value to write (R22, R81, I8). -/

namespace Sys2Proof.Machine

/-- A register has no value as soon as one of its two lanes carries no byte. -/
theorem u16_eq_none_of_lane {m : Frame} {i o : Nat} (ho : o ∈ [i, i + 1]) (hm : m.read o = none) :
    u16 m i = none := by
  obtain rfl | rfl : o = i ∨ o = i + 1 := by simpa using ho
  · exact u16_eq_none (.inl hm)
  · exact u16_eq_none (.inr hm)

/-- A 32-bit value has no value as soon as one of its two registers has none. -/
theorem u32lw_eq_none {m : Frame} {i : Nat} (h : u16 m i = none ∨ u16 m (i + 2) = none) :
    u32lw m i = none := by
  unfold u32lw
  rcases h with h | h
  · simp only [h]
  · rw [h]; cases u16 m i <;> rfl

/-- A signed field has no value as soon as its magnitude or its sign register has none. -/
theorem valSM16_eq_none {m : Frame} {mag sign : Nat} (b : Build) (den : Nat)
    (h : u16 m mag = none ∨ u16 m sign = none) : valSM16 b m mag sign den = none := by
  unfold valSM16
  rcases h with h | h
  · simp only [h]
  · rw [h]; cases u16 m mag <;> rfl

/-- An operation has no value as soon as one of its lanes carries no byte. -/
theorem valueOf_eq_none {i : Instr} {m : Frame} {o : Nat} (b : Build)
    (ho : o ∈ lanesOf i.schema.format) (hm : m.read o = none) : valueOf i b m = none := by
  unfold valueOf
  cases hf : i.schema.format with rw [hf] at ho
  | u16s off => simp [valU16S, u16_eq_none_of_lane ho hm]
  | u32lw off =>
    have hreg : u16 m off = none ∨ u16 m (off + 2) = none :=
      (List.mem_append (s := [off, off + 1]).1 ho).imp (u16_eq_none_of_lane · hm) (u16_eq_none_of_lane · hm)
    simp [valU32LW, u32lw_eq_none hreg]
  | sm16 mag sign =>
    have hreg : u16 m mag = none ∨ u16 m sign = none :=
      (List.mem_append (s := [mag, mag + 1]).1 ho).imp (u16_eq_none_of_lane · hm) (u16_eq_none_of_lane · hm)
    exact valSM16_eq_none b _ hreg

/-- Settles O20: with a lane absent the operation has no value, and with LEN of 40 or more it then stops. -/
theorem absentLaneStopsFieldOperation : Obligations.AbsentLaneStopsFieldOperation := by
  rintro i s hlen ⟨o, ho, hm⟩
  exact exec_of_absent hlen (valueOf_eq_none s.build ho hm)

end Sys2Proof.Machine
end

section
/-! The output numerators (R25, R102, D21): where each format's numerator lies, and that its field's wires
carry it. -/

namespace Sys2Proof.Machine

/-! ### The wires -/

/-- Unsigned wires carry the value of every word of their width (R25). -/
theorem numeratorOfBits_numeratorBits_toNat {mode : SignMode} {f : FieldName} {k : Nat}
    (hf : signedField f = false) (hk : numeratorWidth mode f = k) (w : BitVec k) :
    numeratorOfBits mode f (numeratorBits mode f w.toNat) = w.toNat := by
  subst hk
  simp [numeratorOfBits, numeratorBits, hf]

/-- Signed wires carry every numerator in two's complement range (R25). -/
theorem numeratorOfBits_numeratorBits_signed {mode : SignMode} {f : FieldName} {n : Int}
    (hf : signedField f = true) (hw : 0 < numeratorWidth mode f)
    (h0 : -2 ^ (numeratorWidth mode f - 1) ≤ n) (hn : n < 2 ^ (numeratorWidth mode f - 1)) :
    numeratorOfBits mode f (numeratorBits mode f n) = n := by
  simp only [numeratorOfBits, numeratorBits, hf, if_true]
  exact BitVec.toInt_ofInt_eq_self hw h0 hn

/-! ### The formats -/

/-- Format U16S is that of the unsigned fields of sixteen wires (R25, R60). -/
theorem field_of_format_u16s {i : Instr} {off : Nat} (h : i.schema.format = .u16s off) (mode : SignMode) :
    signedField i.field = false ∧ numeratorWidth mode i.field = 16 := by
  cases i <;> cases h <;> exact ⟨rfl, rfl⟩

/-- Format U32LW is that of the unsigned fields of 32 wires (R25, R60). -/
theorem field_of_format_u32lw {i : Instr} {off : Nat} (h : i.schema.format = .u32lw off) (mode : SignMode) :
    signedField i.field = false ∧ numeratorWidth mode i.field = 32 := by
  cases i <;> cases h <;> exact ⟨rfl, rfl⟩

/-- Format SM16 is that of the signed fields, of seventeen wires, or 34 under SOURCE_FORMULA (R25, D21). -/
theorem field_of_format_sm16 {i : Instr} {mag sign : Nat} (h : i.schema.format = .sm16 mag sign)
    (mode : SignMode) :
    signedField i.field = true ∧
      numeratorWidth mode i.field = if mode = .sourceFormula then 34 else 17 := by
  cases i <;> cases h <;> cases mode <;> exact ⟨rfl, rfl⟩

/-- Under ZERO_TEST and BIT0 a signed numerator is the magnitude or its negative (R102). -/
theorem applySign_range {mode : SignMode} (hmode : mode ≠ .sourceFormula) (m s : Word) :
    -65535 ≤ applySign mode m s ∧ applySign mode m s ≤ 65535 := by
  have hm := m.isLt
  have hmag : applySign mode m s = m.toNat ∨ applySign mode m s = -(m.toNat : Int) := by
    cases mode with
    | zeroTest => exact ite_eq_or_eq ..
    | bit0 => exact (ite_eq_or_eq ..).symm
    | sourceFormula => exact absurd rfl hmode
  omega

/-- Under SOURCE_FORMULA a signed numerator is `m - 2 * s * m`, smallest where both are 65535 (R102). -/
theorem applySign_sourceFormula_range (m s : Word) :
    -8589606915 ≤ applySign .sourceFormula m s ∧ applySign .sourceFormula m s ≤ 65535 := by
  have hm := m.isLt
  have hprod : s.toNat * m.toNat ≤ 65535 * m.toNat := Nat.mul_le_mul_right _ (by omega)
  have happ : applySign .sourceFormula m s = (m.toNat : Int) - 2 * ((s.toNat * m.toNat : Nat) : Int) := by
    simp only [applySign, Nat.cast_mul]; ring
  omega

/-- A signed numerator lies in the two's complement range of its wires, in every mode (D21). -/
theorem applySign_fits (mode : SignMode) (m s : Word) :
    -2 ^ ((if mode = .sourceFormula then 34 else 17) - 1) ≤ applySign mode m s ∧
      applySign mode m s < 2 ^ ((if mode = .sourceFormula then 34 else 17) - 1) := by
  by_cases hmode : mode = .sourceFormula
  · subst hmode
    have hrange := applySign_sourceFormula_range m s
    simp only [if_true]
    omega
  · have hrange := applySign_range hmode m s
    simp only [hmode, if_false]
    omega

/-- Settles O12, format by format: the range of the numerator comes from its registers, and lies in that of
the field's wires. -/
theorem numeratorsFitTheirWidths : Obligations.NumeratorsFitTheirWidths := by
  intro i b m n d hexact hval
  unfold valueOf at hval
  cases hf : i.schema.format with rw [hf] at hval
  | u16s off =>
    obtain ⟨w, -, hw⟩ := valU16S_eq_some hval
    obtain ⟨rfl, rfl⟩ : n = w.toNat ∧ d = i.schema.den := by simpa [hexact, scale] using hw
    obtain ⟨hsign, hwidth⟩ := field_of_format_u16s hf b.signMode
    exact ⟨rfl, numeratorOfBits_numeratorBits_toNat hsign hwidth w, fun _ => by omega, by simp [hsign]⟩
  | u32lw off =>
    obtain ⟨w, -, hw⟩ := valU32LW_eq_some hval
    obtain ⟨rfl, rfl⟩ : n = w.toNat ∧ d = i.schema.den := by simpa [hexact, scale] using hw
    obtain ⟨hsign, hwidth⟩ := field_of_format_u32lw hf b.signMode
    exact ⟨rfl, numeratorOfBits_numeratorBits_toNat hsign hwidth w, fun _ => by omega, by simp [hsign]⟩
  | sm16 mag sign =>
    obtain ⟨w, s, -, -, hw⟩ := valSM16_eq_some hval
    obtain ⟨rfl, rfl⟩ : n = applySign b.signMode w s ∧ d = i.schema.den := by
      simpa [hexact, scale] using hw
    obtain ⟨hsign, hwidth⟩ := field_of_format_sm16 hf b.signMode
    have hfit : -2 ^ (numeratorWidth b.signMode i.field - 1) ≤ applySign b.signMode w s ∧
        applySign b.signMode w s < 2 ^ (numeratorWidth b.signMode i.field - 1) := by
      rw [hwidth]; exact applySign_fits b.signMode w s
    have hpos : 0 < numeratorWidth b.signMode i.field := by rw [hwidth]; split <;> omega
    exact ⟨rfl, numeratorOfBits_numeratorBits_signed hsign hpos hfit.1 hfit.2, by simp [hsign],
      fun _ hmode => applySign_range hmode w s⟩

end Sys2Proof.Machine
end

section
/-! Big-endian assembly (R41, R42, R100, R101): a register is the concatenation of its two bytes, a
32-bit value that of its two registers; and the buffer of a REGS statement read back (R69). -/

namespace Sys2Proof.Machine

/-! ### The extraction primitives as concatenations -/

/-- Concatenation is the arithmetic of a big-endian pair. -/
theorem toNat_append_eq_mul_add {m n : Nat} (x : BitVec m) (y : BitVec n) :
    (x ++ y).toNat = x.toNat * 2 ^ n + y.toNat := by
  rw [BitVec.toNat_append, ← Nat.shiftLeft_add_eq_or_of_lt y.isLt, Nat.shiftLeft_eq]

/-- The number of a big-endian pair is its concatenation. -/
theorem ofNat_mul_add_eq_append {m n : Nat} (x : BitVec m) (y : BitVec n) :
    BitVec.ofNat (m + n) (x.toNat * 2 ^ n + y.toNat) = x ++ y := by
  rw [← toNat_append_eq_mul_add, BitVec.ofNat_toNat, BitVec.setWidth_eq]

/-- A register's first byte is its upper half (R41). -/
theorem u16_eq_append {m : Frame} {i : Nat} {hi lo : Byte} (hhi : m.read i = some hi)
    (hlo : m.read (i + 1) = some lo) : u16 m i = some (hi ++ lo) :=
  (u16_of_read hhi hlo).trans (congrArg some (ofNat_mul_add_eq_append hi lo))

/-- A 32-bit value's first register is its lower half (R42). -/
theorem u32lw_eq_append {m : Frame} {i : Nat} {lo hi : Word} (hlo : u16 m i = some lo)
    (hhi : u16 m (i + 2) = some hi) : u32lw m i = some (hi ++ lo) :=
  (u32lw_of_u16 hlo hhi).trans (congrArg some (ofNat_mul_add_eq_append hi lo))

/-- `MemRead(i, 2)` over two carried lanes (R9). -/
theorem memRead_two {m : Frame} {i : Nat} {hi lo : Byte} (hhi : m.read i = some hi)
    (hlo : m.read (i + 1) = some lo) : memRead m i 2 = some (hi.toNat * 256 + lo.toNat) := by
  simp [memRead, hhi, hlo]

/-- Settles O6: the register is the concatenation of its bytes, whose number and halves are known. -/
theorem u16IsBigEndian : Obligations.U16IsBigEndian := fun _ _ hi lo hhi hlo =>
  ⟨memRead_two hhi hlo, hi ++ lo, u16_eq_append hhi hlo, toNat_append_eq_mul_add hi lo,
    BitVec.extractLsb'_append_eq_left, BitVec.extractLsb'_append_eq_right⟩

/-- Settles O7: the value is the concatenation of its registers, the one at the upper offset first, and each
register that of its bytes; a byte of the value is a byte of one register. -/
theorem u32IsLowWordFirst : Obligations.U32IsLowWordFirst := by
  intro m i b0 b1 b2 b3 h0 h1 h2 h3
  refine ⟨(b2 ++ b3) ++ (b0 ++ b1), u32lw_eq_append (u16_eq_append h0 h1) (u16_eq_append h2 h3),
    ?_, ?_, ?_, ?_, ?_⟩
  · calc ((b2 ++ b3) ++ (b0 ++ b1)).toNat
        = (b2 ++ b3).toNat * 2 ^ 16 + (b0 ++ b1).toNat := toNat_append_eq_mul_add _ _
      _ = (b2.toNat * 256 + b3.toNat) * 65536 + (b0.toNat * 256 + b1.toNat) := by
        simp only [toNat_append_eq_mul_add, Nat.reducePow]
  · rw [BitVec.extractLsb'_append_eq_of_add_le (by decide), BitVec.extractLsb'_append_eq_left]
  · rw [BitVec.extractLsb'_append_eq_of_add_le (by decide), BitVec.extractLsb'_append_eq_right]
  · rw [BitVec.extractLsb'_append_eq_of_le (by decide), BitVec.extractLsb'_append_eq_left]
  · rw [BitVec.extractLsb'_append_eq_of_le (by decide), BitVec.extractLsb'_append_eq_right]

/-! ### The buffer of a REGS statement -/

/-- Operands expand one after the other. -/
theorem regsBytes_append (pre post : List RegTok) :
    regsBytes (pre ++ post) = regsBytes pre ++ regsBytes post := List.flatMap_append

/-- A register operand stands for its own two bytes. -/
theorem regsBytes_reg_cons (w : Word) (post : List RegTok) :
    regsBytes (.reg w :: post) = wordBytes w ++ regsBytes post := by
  simp [regsBytes, RegTok.words]

/-- The low word of a `W32:` operand stands first (R42). -/
theorem regsBytes_w32_cons (v : DWord) (post : List RegTok) :
    regsBytes (.w32 v :: post) =
      wordBytes (v.extractLsb' 0 16) ++ (wordBytes (v.extractLsb' 16 16) ++ regsBytes post) := by
  simp [regsBytes, RegTok.words]

/-- The buffer is made of the bytes of the registers the operands stand for. -/
theorem regsBytes_eq_flatMap_wordBytes (toks : List RegTok) :
    regsBytes toks = (toks.flatMap RegTok.words).flatMap wordBytes := List.flatMap_assoc.symm

@[simp] theorem length_wordBytes (w : Word) : (wordBytes w).length = 2 := rfl

/-- Two bytes for each register. -/
theorem length_regsBytes (toks : List RegTok) :
    (regsBytes toks).length = 2 * (toks.flatMap RegTok.words).length := by
  rw [regsBytes_eq_flatMap_wordBytes, List.length_flatMap]
  simp [Nat.mul_comm]

/-- A register's two bytes, wherever they stand within the forty lanes, read back as the register. -/
theorem u16_ofBuffer_wordBytes (pre : List Byte) (w : Word) (post : List Byte) (h : pre.length + 2 ≤ 40) :
    u16 (Frame.ofBuffer (pre ++ (wordBytes w ++ post))) pre.length = some w := by
  have hhi : (Frame.ofBuffer (pre ++ (wordBytes w ++ post))).read pre.length =
      some (w.extractLsb' 8 8) := by
    rw [Frame.read_ofBuffer, if_pos (by omega)]
    simp [wordBytes]
  have hlo : (Frame.ofBuffer (pre ++ (wordBytes w ++ post))).read (pre.length + 1) =
      some (w.extractLsb' 0 8) := by
    rw [Frame.read_ofBuffer, if_pos (by omega)]
    simp [wordBytes]
  exact (u16_eq_append hhi hlo).trans (congrArg some BitVec.extractLsb'_append_extractLsb')

/-- The bytes of a 32-bit value's two registers, the low word first, read back as the value. -/
theorem u32lw_ofBuffer_wordBytes (pre : List Byte) (v : DWord) (post : List Byte)
    (h : pre.length + 4 ≤ 40) :
    u32lw (Frame.ofBuffer (pre ++ (wordBytes (v.extractLsb' 0 16) ++
      (wordBytes (v.extractLsb' 16 16) ++ post)))) pre.length = some v := by
  have hlo := u16_ofBuffer_wordBytes pre (v.extractLsb' 0 16)
    (wordBytes (v.extractLsb' 16 16) ++ post) (by omega)
  have hhi := u16_ofBuffer_wordBytes (pre ++ wordBytes (v.extractLsb' 0 16)) (v.extractLsb' 16 16) post
    (by simpa using h)
  rw [List.append_assoc, List.length_append, length_wordBytes] at hhi
  exact (u32lw_eq_append hlo hhi).trans (congrArg some BitVec.extractLsb'_append_extractLsb')

/-- Settles O35: the operand's bytes stand after those of the operands before it, and read back. -/
theorem regsExpandToRegisters : Obligations.RegsExpandToRegisters := by
  refine ⟨fun pre post w h => ?_, fun pre post v h => ?_, length_regsBytes⟩
  · rw [regsBytes_append, regsBytes_reg_cons]
    exact u16_ofBuffer_wordBytes (regsBytes pre) w (regsBytes post) h
  · rw [regsBytes_append, regsBytes_w32_cons]
    exact u32lw_ofBuffer_wordBytes (regsBytes pre) v (regsBytes post) h

end Sys2Proof.Machine
end

section
/-! The select codes (R65, R66): the codes of the fourteen operations are all codes but 0x7 and 0xF, so the
decoder and the encoder are inverse to each other; and STATUS as its bit (R67). -/

namespace Sys2Proof

open Machine

/-- The fourteen operations, in the order of the table of R65. -/
def Instr.all : List Instr :=
  [.ch1Voltage, .ch1Current, .ch1Power, .ch1Penergy, .ch1Nenergy, .ch1Pf, .ch1Freq,
   .ch2Voltage, .ch2Current, .ch2Power, .ch2Penergy, .ch2Nenergy, .ch2Pf, .ch2Freq]

/-- The codes of a DECODE are those of the fourteen operations. -/
theorem selectCodes_eq_map_encode : selectCodes = Instr.all.map encode := rfl

/-- What the model's table says of each operation holds of every operation. -/
theorem schema_statement (i : Instr) : Laws.Schema.Statement i :=
  match i with
  | .ch1Voltage => Laws.Schema.ch1Voltage
  | .ch1Current => Laws.Schema.ch1Current
  | .ch1Power => Laws.Schema.ch1Power
  | .ch1Penergy => Laws.Schema.ch1Penergy
  | .ch1Nenergy => Laws.Schema.ch1Nenergy
  | .ch1Pf => Laws.Schema.ch1Pf
  | .ch1Freq => Laws.Schema.ch1Freq
  | .ch2Voltage => Laws.Schema.ch2Voltage
  | .ch2Current => Laws.Schema.ch2Current
  | .ch2Power => Laws.Schema.ch2Power
  | .ch2Penergy => Laws.Schema.ch2Penergy
  | .ch2Nenergy => Laws.Schema.ch2Nenergy
  | .ch2Pf => Laws.Schema.ch2Pf
  | .ch2Freq => Laws.Schema.ch2Freq

/-- Every operation is well formed (R43, R46, R103). -/
theorem Instr.wf_eq_true (i : Instr) : i.wf = true := (schema_statement i).1

/-- The channel that an operation's code picks is its own. -/
@[simp] theorem channel_encode (i : Instr) : Sel.channel (encode i) = i.channel :=
  (schema_statement i).2.2.1

/-- The field that an operation's code picks is its own. -/
@[simp] theorem field_encode (i : Instr) : Sel.field (encode i) = some i.field :=
  (schema_statement i).2.2.2

/-- The code of an operation is not reserved. -/
theorem encode_not_reserved (i : Instr) : ¬ (encode i = 0x7#4 ∨ encode i = 0xF#4) := by
  obtain ⟨-, hsel, -, -⟩ := schema_statement i
  simpa [Sel.wf] using hsel

/-- A code is that of an operation or it is reserved. -/
theorem eq_encode_or_reserved (sel : Sel) : (∃ i, encode i = sel) ∨ sel = 0x7#4 ∨ sel = 0xF#4 := by
  have hall : ∀ sel : Sel, sel ∈ selectCodes ∨ sel = 0x7#4 ∨ sel = 0xF#4 := by decide
  refine (hall sel).imp_left fun hmem => ?_
  obtain ⟨i, -, hi⟩ := List.mem_map.1 (selectCodes_eq_map_encode ▸ hmem)
  exact ⟨i, hi⟩

/-- A reserved code names no operation (R66). -/
theorem decode_reserved {sel : Sel} (h : sel = 0x7#4 ∨ sel = 0xF#4) :
    decode sel = .error (.reserved sel) := by
  obtain rfl | rfl := h <;> rfl

/-- The decoder inverts the encoder, and nothing else decodes to an operation. -/
theorem decode_eq_ok_iff {sel : Sel} {i : Instr} : decode sel = .ok i ↔ encode i = sel := by
  obtain ⟨j, rfl⟩ | h := eq_encode_or_reserved sel
  · rw [decode_encode, Except.ok.injEq]
    refine ⟨fun hij => hij ▸ rfl, fun henc => ?_⟩
    have hdec := decode_encode i
    rw [henc, decode_encode] at hdec
    exact Except.ok.inj hdec
  · rw [decode_reserved h]
    exact iff_of_false (by simp) fun henc => encode_not_reserved i (henc ▸ h)

/-- Exactly the reserved codes are refused. -/
theorem decode_eq_error_iff {sel : Sel} :
    (∃ r, decode sel = .error r) ↔ sel = 0x7#4 ∨ sel = 0xF#4 := by
  refine ⟨fun ⟨r, hr⟩ => ?_, fun h => ⟨_, decode_reserved h⟩⟩
  obtain ⟨i, rfl⟩ | h := eq_encode_or_reserved sel
  · simp at hr
  · exact h

/-- A byte decodes to an operation exactly when its number is that of the operation's code: its upper bits
are then 0, and its lower four are the code. -/
theorem decodeByte_eq_ok_iff {b : Byte} {i : Instr} :
    decodeByte b = .ok i ↔ b.toNat = (encode i).toNat := by
  have hcode := (encode i).isLt
  unfold decodeByte
  split
  · rw [decode_eq_ok_iff, ← BitVec.toNat_inj, BitVec.toNat_setWidth, Nat.mod_eq_of_lt ‹_›, eq_comm]
  · exact iff_of_false (by simp) (by omega)

/-- Settles O2: the codes of the operations are all codes but the reserved two, and the decoder inverts the
encoder on them. -/
theorem decodeAndEncodeAgree : Obligations.DecodeAndEncodeAgree :=
  ⟨fun i => ⟨i.wf_eq_true, decode_encode i⟩, fun _ _ => decode_eq_ok_iff.1,
    fun _ _ => decodeByte_eq_ok_iff, fun _ => decode_eq_error_iff⟩

/-- SEL[3] of an operation's code is its channel's bit (R65). -/
theorem getLsbD_three_encode (i : Instr) : (encode i).getLsbD 3 = i.channel.bit.getLsbD 0 := by
  rw [encode, BitVec.getLsbD_append, if_neg (by decide)]

/-- SEL[2:0] of an operation's code is its field's index (R65). -/
theorem extractLsb'_encode (i : Instr) : (encode i).extractLsb' 0 3 = i.field.index :=
  BitVec.extractLsb'_append_eq_right

/-- Settles O1: the table row by row, and the bits of a code from those of its operation. -/
theorem selectCodesFollowTheTable : Obligations.SelectCodesFollowTheTable := by
  refine ⟨by decide, fun sel i hdec => ?_⟩
  obtain rfl := decode_eq_ok_iff.1 hdec
  rw [getLsbD_three_encode]
  cases i.channel <;> simp [Channel.bit, extractLsb'_encode]

/-- A STATUS is read back from its bit. -/
theorem Status.ofBit_bit (st : Status) : Status.ofBit st.bit = st := by
  cases st <;> rfl

/-- A bit is read back from its STATUS. -/
theorem Status.bit_ofBit (b : BitVec 1) : (Status.ofBit b).bit = b := by
  revert b; decide

/-- Settles O5: the two bits by definition, and each direction by its round trip. -/
theorem statusIsOneBit : Obligations.StatusIsOneBit :=
  ⟨rfl, rfl, Status.ofBit_bit, Status.bit_ofBit⟩

end Sys2Proof
end

section
/-! The step by its kind (R66, R69, R80, R82, R84, R85): a READ of the host, an EXPECT, and a field operation of
a running transaction. -/

namespace Sys2Proof.Machine

/-! ### The READ port -/

/-- A READ of a reserved code is refused before anything else is looked at (R85). -/
theorem State.readPort_of_reserved (s : State) {sel : Sel} (h : sel = 0x7#4 ∨ sel = 0xF#4) :
    s.readPort sel = .reservedSelect := if_pos h

/-- With STATUS OK and a record a READ gives the field of the operation whose code it names. -/
theorem State.readPort_of_record {s : State} {r : TelemetryRecord FieldValue} (i : Instr)
    (hst : s.status = some .ok) (hrec : s.record = some r) :
    s.readPort (encode i) = .value (r.get i.channel i.field) := by
  simp [State.readPort, encode_not_reserved i, hst, hrec]

/-- With another STATUS, or without a record, a READ of any other code than the reserved is refused. -/
theorem State.readPort_of_no_record {s : State} {sel : Sel} (hsel : ¬ (sel = 0x7#4 ∨ sel = 0xF#4))
    (h : s.status ≠ some .ok ∨ s.record = none) : s.readPort sel = .noRecord := by
  unfold State.readPort
  rw [if_neg hsel]
  split
  next hst hrec _ =>
    obtain h | h := h
    · exact absurd hst h
    · rw [h] at hrec; cases hrec
  next => rfl

/-- A READ leaves its answer and changes nothing else (R85). -/
theorem step_of_read {s : State} {sel : Sel} {rest : List HostCmd} {a : ReadResponse} (htodo : s.todo = [])
    (hscript : s.script = .read sel :: rest) (ha : s.readPort sel = a) :
    step s = .next { s with script := rest, response := some a } :=
  ha ▸ step_of_host htodo hscript

/-- Settles O3: the READ's answer is the refusal of its code. -/
theorem reservedReadIsRefused : Obligations.ReservedReadIsRefused := fun s _ _ hsel htodo hscript =>
  step_of_read htodo hscript (s.readPort_of_reserved hsel)

/-- Settles O32: the table's rows are the operations' codes with their fields, and the answer to each code is
that of the READ port. -/
theorem readAnswersTheSelectedField : Obligations.ReadAnswersTheSelectedField := by
  refine fun s sel rest htodo hscript => ⟨fun r hst hrec v hmem => ?_, fun h h7 hF => ?_, fun hsel => ?_⟩
  · have hrow : (sel, v) ∈ Instr.all.map fun i => (encode i, r.get i.channel i.field) := hmem
    obtain ⟨i, -, hi⟩ := List.mem_map.1 hrow
    obtain ⟨rfl, rfl⟩ := Prod.mk.inj hi
    exact step_of_read htodo hscript (State.readPort_of_record i hst hrec)
  · exact step_of_read htodo hscript (State.readPort_of_no_record (not_or.2 ⟨h7, hF⟩) h)
  · exact step_of_read htodo hscript (s.readPort_of_reserved hsel)

/-! ### An EXPECT, and nothing asked -/

/-- Settles O36: the host's action of an EXPECT is none. -/
theorem expectAndIdleHaveNoEffect : Obligations.ExpectAndIdleHaveNoEffect := fun _ htodo =>
  ⟨step_of_idle htodo, fun _ _ hscript => step_of_host htodo hscript,
    fun _ _ _ _ hscript => step_of_host htodo hscript⟩

/-! ### A running transaction -/

/-- Settles O4: a reserved code decodes to no operation the step could run. -/
theorem reservedCodeInTransactionStops : Obligations.ReservedCodeInTransactionStops := by
  intro s sel rest hsel htodo
  simp [step, stepState, htodo, stepField, decode_reserved hsel]

/-- A step stops with the fault of its operation. -/
theorem step_of_field_fault {s : State} {sel : Sel} {rest : List Sel} {i : Instr} {r : Fault}
    (htodo : s.todo = sel :: rest) (hd : decode sel = .ok i) (he : exec i s = .fault r) :
    step s = .fault r := by
  simp [step, stepState, htodo, stepField, hd, he]

/-- A field operation keeps the list of codes. -/
theorem exec_todo {i : Instr} {s t : State} (h : exec i s = .next t) : t.todo = s.todo := by
  obtain ⟨-, -, -, -, -, htodo, -⟩ := fieldOperationFrame i s t h
  exact htodo

/-- The step that runs the last operation gives out the outputs. -/
theorem step_of_last_field {s t : State} {sel : Sel} {i : Instr} (htodo : s.todo = [sel])
    (hd : decode sel = .ok i) (he : exec i s = .next t) : step s = .next t.commit := by
  rw [step_of_field htodo hd he, State.advance_last ((exec_todo he).trans htodo)]

/-- Settles O25: the step answers what its operation answers, and what follows depends on whether a code is
left and on whether the record is complete. -/
theorem stepRunsDecodedOperation : Obligations.StepRunsDecodedOperation := by
  refine fun s sel rest i htodo hd => ⟨fun r => step_of_field_fault htodo hd, fun t he hrest => ?_,
    fun t r he hrest hc => ?_, fun t he hrest hc => ?_⟩
  · obtain ⟨next, more, rfl⟩ := List.exists_cons_of_ne_nil hrest
    rw [step_of_field htodo hd he, State.advance_more ((exec_todo he).trans htodo)]
  · subst hrest
    rw [step_of_last_field htodo hd he, State.commit_of_complete hc]
  · subst hrest
    rw [step_of_last_field htodo hd he, State.commit_of_incomplete hc]

end Sys2Proof.Machine
end

section
/-! DECODE as one function (R60, R61, R68, R80): the loop's body reads twenty bytes from its channel's base on,
and each operation writes the field that the body computes; the record in the numbers of the bytes. -/

namespace Sys2Proof.Machine

/-! ### The loop's body -/

/-- An operation's value is its field of the loop's body at its channel's base. -/
theorem valueOf_eq_decodeChannel (i : Instr) (b : Build) (m : Frame) :
    valueOf i b m = (decodeChannel b m i.channel.base).get i.field := by
  cases i <;> rfl

/-- The loop's body depends on the twenty bytes from its base on only. -/
theorem decodeChannel_congr (b : Build) {m m' : Frame} {base base' : Nat}
    (h : ∀ o, o < 20 → m.read (base + o) = m'.read (base' + o)) :
    decodeChannel b m base = decodeChannel b m' base' := by
  have hreg : ∀ o, o < 19 → u16 m (base + o) = u16 m' (base' + o) := fun o ho =>
    u16_congr (h o (by omega)) (h (o + 1) (by omega))
  have hdword : ∀ o, o < 17 → u32lw m (base + o) = u32lw m' (base' + o) := fun o ho =>
    u32lw_congr (hreg o (by omega)) (hreg (o + 2) (by omega))
  simp (disch := decide) only [decodeChannel, valU16S, valU32LW, valSM16, hreg, hdword]

/-- Settles O24: the two operations are the same field of the loop's body, at the bases 0 and 20. -/
theorem secondLaneReadsTwentyHigher : Obligations.SecondLaneReadsTwentyHigher := by
  intro i j s t s' hi hj hfield hbuild hs ht hlanes hexec
  obtain ⟨hshort, -⟩ | ⟨-, v, hv, rfl⟩ := exec_cases hexec
  · omega
  · have hbody : decodeChannel t.build t.frame 20 = decodeChannel t.build s.frame 0 :=
      decodeChannel_congr _ fun o ho => by rw [Nat.add_comm, Nat.zero_add, hlanes o ho]
    have hvj : valueOf j t.build t.frame = some v := by
      calc valueOf j t.build t.frame
          = (decodeChannel t.build t.frame 20).get j.field := by
            rw [valueOf_eq_decodeChannel, hj]; rfl
        _ = (decodeChannel s.build s.frame 0).get i.field := by rw [hbody, hfield, hbuild]
        _ = valueOf i s.build s.frame := by rw [valueOf_eq_decodeChannel, hi]; rfl
        _ = some v := hv
    exact ⟨_, exec_of_value ht hvj, by simp [← hi, ← hj]⟩

/-- Past the length check DECODE's function does not depend on LEN (R22). -/
theorem decodeFunction_of_full (b : Build) (m : Frame) {len : Nat} (h : 40 ≤ len) :
    decodeFunction b m len =
      (.ok, (TelemetryRecord.mk (decodeChannel b m 0) (decodeChannel b m 20)).complete) :=
  if_neg (Nat.not_lt.2 h)

/-- Presenting a buffer presents its first forty bytes (R21). -/
theorem Frame.ofBuffer_take (bytes : List Byte) :
    Frame.ofBuffer (bytes.take 40) = Frame.ofBuffer bytes := by
  simp [Frame.ofBuffer, List.take_take]

/-- Settles O34: the lanes of the two buffers are the same, and both lengths pass the check. -/
theorem longBufferDecodesAsFirstForty : Obligations.LongBufferDecodesAsFirstForty := by
  intro b bytes h
  rw [Frame.ofBuffer_take, decodeFunction_of_full b _ h, decodeFunction_of_full b _ (le_refl 40)]

/-! ### The record in the numbers of the bytes -/

/-- `apply_sign` in the numbers of its two registers (R102). -/
theorem applySign_eq_signedNumerator (mode : SignMode) (m s : Word) :
    applySign mode m s = signedNumerator mode m.toNat s.toNat := by
  cases mode with
  | zeroTest => simp [applySign, signedNumerator, ← BitVec.toNat_inj]
  | bit0 =>
    have hbit : s.getLsbD 0 = decide (s.toNat % 2 = 1) := by simp [BitVec.getLsbD, Nat.testBit_zero]
    rcases Nat.mod_two_eq_zero_or_one s.toNat with h | h <;>
      simp only [applySign, signedNumerator, hbit, h] <;> rfl
  | sourceFormula => simp only [applySign, signedNumerator]; ring

/-- The forty lanes carry the bytes whose numbers `x` gives. -/
def Frame.Carries (m : Frame) (x : Nat → Nat) : Prop :=
  ∀ i, i < 40 → ∃ y : Byte, m.read i = some y ∧ y.toNat = x i

/-- The number of the register at byte offset `i`, from those of the bytes (R41). -/
def regNumber (x : Nat → Nat) (i : Nat) : Nat := x i * 256 + x (i + 1)

/-- A register is the number of its two bytes. -/
theorem Frame.Carries.u16 {m : Frame} {x : Nat → Nat} (h : m.Carries x) {i : Nat} (hi : i + 1 < 40) :
    ∃ w, u16 m i = some w ∧ w.toNat = regNumber x i := by
  obtain ⟨upper, hupper, hxu⟩ := h i (by omega)
  obtain ⟨lower, hlower, hxl⟩ := h (i + 1) hi
  obtain ⟨-, w, hw, hnum, -⟩ := u16IsBigEndian m i upper lower hupper hlower
  exact ⟨w, hw, by rw [hnum, hxu, hxl, regNumber]⟩

/-- A 32-bit value is the number of its two registers, the low word at the lower offset. -/
theorem Frame.Carries.u32lw {m : Frame} {x : Nat → Nat} (h : m.Carries x) {i : Nat} (hi : i + 3 < 40) :
    ∃ v, u32lw m i = some v ∧ v.toNat = regNumber x (i + 2) * 65536 + regNumber x i := by
  obtain ⟨low, hlow, hxl⟩ := h.u16 (i := i) (by omega)
  obtain ⟨high, hhigh, hxh⟩ := h.u16 (i := i + 2) (by omega)
  exact ⟨high ++ low, u32lw_eq_append hlow hhigh, by rw [toNat_append_eq_mul_add, hxh, hxl]; rfl⟩

/-- Format U16S in the numbers of the bytes. -/
theorem Frame.Carries.valU16S {m : Frame} {x : Nat → Nat} (h : m.Carries x) (b : Build) {off : Nat}
    (den : Nat) (hoff : off + 1 < 40) :
    valU16S b m off den = some (scale b.outRepr (regNumber x off : Nat) den) := by
  obtain ⟨w, hw, hx⟩ := h.u16 hoff
  simp [Machine.valU16S, hw, hx]

/-- Format U32LW in the numbers of the bytes. -/
theorem Frame.Carries.valU32LW {m : Frame} {x : Nat → Nat} (h : m.Carries x) (b : Build) {off : Nat}
    (den : Nat) (hoff : off + 3 < 40) :
    valU32LW b m off den =
      some (scale b.outRepr (regNumber x (off + 2) * 65536 + regNumber x off : Nat) den) := by
  obtain ⟨v, hv, hx⟩ := h.u32lw hoff
  simp only [Machine.valU32LW, hv, hx]

/-- Format SM16 in the numbers of the bytes. -/
theorem Frame.Carries.valSM16 {m : Frame} {x : Nat → Nat} (h : m.Carries x) (b : Build) {mag sign : Nat}
    (den : Nat) (hmag : mag + 1 < 40) (hsign : sign + 1 < 40) :
    valSM16 b m mag sign den =
      some (scale b.outRepr (signedNumerator b.signMode (regNumber x mag) (regNumber x sign)) den) := by
  obtain ⟨w, hw, hx⟩ := h.u16 hmag
  obtain ⟨s, hs, hxs⟩ := h.u16 hsign
  simp [Machine.valSM16, hw, hs, applySign_eq_signedNumerator, hx, hxs]

/-- The seven fields of the channel at `base`, from the numbers of the bytes (R60, R61). -/
def channelOfBytes (b : Build) (x : Nat → Nat) (base : Nat) : ChannelMeasurement FieldValue where
  voltage := scale b.outRepr (regNumber x base : Nat) 100
  current := scale b.outRepr
    (signedNumerator b.signMode (regNumber x (base + 2)) (regNumber x (base + 6))) 100
  activePower := scale b.outRepr
    (signedNumerator b.signMode (regNumber x (base + 4)) (regNumber x (base + 6))) 1
  positiveEnergy := scale b.outRepr
    (regNumber x (base + 10) * 65536 + regNumber x (base + 8) : Nat) 1000
  negativeEnergy := scale b.outRepr
    (regNumber x (base + 14) * 65536 + regNumber x (base + 12) : Nat) 1000
  powerFactor := scale b.outRepr (regNumber x (base + 16) : Nat) 1000
  frequency := scale b.outRepr (regNumber x (base + 18) : Nat) 100

/-- The loop's body completes its channel from the numbers of the bytes. -/
theorem Frame.Carries.decodeChannel_complete {m : Frame} {x : Nat → Nat} (h : m.Carries x) (b : Build)
    {base : Nat} (hbase : base + 20 ≤ 40) :
    (decodeChannel b m base).complete = some (channelOfBytes b x base) := by
  simp (disch := omega) only [decodeChannel, h.valU16S, h.valSM16, h.valU32LW]
  rfl

/-- Settles O29: past the length check both channels complete, each from its own base. -/
theorem recordFromFortyBytes : Obligations.RecordFromFortyBytes := by
  intro b m len x hlen hbytes
  have hcarries : m.Carries x := hbytes
  have hch1 := hcarries.decodeChannel_complete b (base := 0) (by decide)
  have hch2 := hcarries.decodeChannel_complete b (base := 20) (by decide)
  calc decodeFunction b m len
      = (.ok, (TelemetryRecord.mk (decodeChannel b m 0) (decodeChannel b m 20)).complete) :=
        decodeFunction_of_full b m hlen
    _ = (.ok, some ⟨channelOfBytes b x 0, channelOfBytes b x 20⟩) := by
        simp only [TelemetryRecord.complete, hch1, hch2]

end Sys2Proof.Machine
end

section
/-! The order of the field operations cannot be observed (R88): they write different fields, and what each
writes depends on the inputs alone. -/

namespace Sys2Proof.Machine

/-- Writes to two different fields may be exchanged. -/
theorem TelemetryRecord.set_comm {α : Type} (r : TelemetryRecord α) {ch ch' : Channel} {f f' : FieldName}
    (v w : α) (h : (ch', f') ≠ (ch, f)) :
    (r.set ch f v).set ch' f' w = (r.set ch' f' w).set ch f v := by
  refine TelemetryRecord.ext_get fun c g => ?_
  by_cases hcg : (c, g) = (ch, f)
  · obtain ⟨rfl, rfl⟩ := Prod.mk.inj hcg
    rw [get_set_other _ _ h.symm, get_set_self, get_set_self]
  · rw [get_set_other _ v hcg]
    by_cases hcg' : (c, g) = (ch', f')
    · obtain ⟨rfl, rfl⟩ := Prod.mk.inj hcg'
      rw [get_set_self, get_set_self]
    · rw [get_set_other _ w hcg', get_set_other _ w hcg', get_set_other _ v hcg]

/-- Writes of the current transaction to two different output fields may be exchanged. -/
theorem State.writeOut_comm (s : State) {ch ch' : Channel} {f f' : FieldName} (v w : FieldValue)
    (h : (ch', f') ≠ (ch, f)) :
    (s.writeOut ch f v).writeOut ch' f' w = (s.writeOut ch' f' w).writeOut ch f v :=
  congrArg (fun out => { s with out }) (s.out.set_comm (some v) (some w) h)

/-- Different operations write different output fields. -/
theorem Instr.channel_field_ne {i j : Instr} (h : i ≠ j) : (i.channel, i.field) ≠ (j.channel, j.field) :=
  fun heq => h (Instr.eq_of_channel_field (Prod.mk.inj heq).1 (Prod.mk.inj heq).2)

/-- Settles O22: with LEN below 40 neither operation does anything, and else the two write the values that the
inputs give, which neither changes, to different fields. -/
theorem fieldOperationsCommute : Obligations.FieldOperationsCommute := by
  intro i j s t u hi hj
  by_cases hij : i = j
  · subst hij
    exact ⟨t, hi, hj⟩
  obtain ⟨hshort, rfl⟩ | ⟨hlong, v, hv, rfl⟩ := exec_cases hi
  · rw [exec_of_short j hshort] at hj
    cases hj
    exact ⟨t, exec_of_short j hshort, exec_of_short i hshort⟩
  obtain ⟨hshort, -⟩ | ⟨-, w, hw, rfl⟩ := exec_cases hj
  · exact absurd hlong (Nat.not_le.2 hshort)
  · rw [State.writeOut_comm s v w (Instr.channel_field_ne (Ne.symm hij))]
    exact ⟨_, exec_of_value hlong hw, exec_of_value hlong hv⟩

end Sys2Proof.Machine
end

section
/-! DECODE as a run of steps (R20, R80, R81, R82, R83, R175, R178): the step that starts it, what stays true
while its operations are evaluated, and that the last of them gives out the record of R80's pseudocode. -/

namespace Sys2Proof.Machine

/-! ### The start -/

/-- A DECODE that passes the length check has the codes of all operations before it and no outputs. -/
theorem step_of_decode_full {s : State} {rest : List HostCmd} (htodo : s.todo = [])
    (hscript : s.script = .decode :: rest) (hlen : 40 ≤ s.len) :
    step s = .next { s with
      script := rest, status := none, record := none, out := .unwritten, todo := selectCodes } := by
  rw [step_of_host htodo hscript]
  exact congrArg _ (State.startDecode_of_full (s := s.nextStatement rest) hlen)

/-- A DECODE of a short buffer reports TooShort, and nothing else changes. -/
theorem step_of_decode_short {s : State} {rest : List HostCmd} (htodo : s.todo = [])
    (hscript : s.script = .decode :: rest) (hlen : s.len < 40) :
    step s = .next { s with
      script := rest, status := some .tooShort, record := none, out := .unwritten } := by
  have hraise : (s.nextStatement rest).startDecode = (s.nextStatement rest).raiseTooShort :=
    State.startDecode_of_short hlen
  rw [step_of_host htodo hscript, State.hostAction, hraise, State.raiseTooShort, State.nextStatement, htodo]

/-- Settles O26: the codes are those of the offset table. -/
theorem longEnoughDecodeStarts : Obligations.LongEnoughDecodeStarts := fun _ _ htodo hscript hlen =>
  ⟨selectCodes, step_of_decode_full htodo hscript hlen, rfl, encode_mem_selectCodes⟩

/-! ### The record of R80's pseudocode -/

/-- Every field of a channel is the output field of an operation (R60). -/
theorem exists_instr_of_channel_field (ch : Channel) (f : FieldName) :
    ∃ i : Instr, i.channel = ch ∧ i.field = f := by
  have hall : ∃ i ∈ Instr.all, i.channel = ch ∧ i.field = f := by cases ch <;> cases f <;> decide
  obtain ⟨i, -, hi⟩ := hall
  exact ⟨i, hi⟩

/-- The fields of a complete channel are those it was completed from. -/
theorem ChannelMeasurement.get_of_complete {c : ChannelMeasurement (Option FieldValue)}
    {d : ChannelMeasurement FieldValue} (h : c.complete = some d) (f : FieldName) :
    c.get f = some (d.get f) := by
  unfold ChannelMeasurement.complete at h
  split at h
  · cases h
    cases f <;> rfl
  · cases h

/-- The fields of a complete record are those it was completed from. -/
theorem TelemetryRecord.get_of_complete {r : TelemetryRecord (Option FieldValue)}
    {d : TelemetryRecord FieldValue} (h : r.complete = some d) (ch : Channel) (f : FieldName) :
    r.get ch f = some (d.get ch f) := by
  unfold TelemetryRecord.complete at h
  split at h
  next a b ha hb =>
    cases h
    cases ch with
    | ch1 => exact ChannelMeasurement.get_of_complete ha f
    | ch2 => exact ChannelMeasurement.get_of_complete hb f
  next => cases h

/-- A record whose every field is written with that of `d` completes to `d`. -/
theorem TelemetryRecord.complete_eq_some {r : TelemetryRecord (Option FieldValue)}
    {d : TelemetryRecord FieldValue} (h : ∀ ch f, r.get ch f = some (d.get ch f)) :
    r.complete = some d := by
  obtain ⟨e, he, hget⟩ := TelemetryRecord.complete_of_get (r := r) fun ch f => by simp [h]
  have hed : e = d := TelemetryRecord.ext_get fun ch f =>
    Option.some.inj ((hget ch f).symm.trans (h ch f))
  rw [he, hed]

/-- The value of each operation is its field of the record that the pseudocode gives. -/
theorem valueOf_of_decodeFunction {b : Build} {m : Frame} {len : Nat} {r : TelemetryRecord FieldValue}
    (hlen : 40 ≤ len) (h : decodeFunction b m len = (.ok, some r)) (i : Instr) :
    valueOf i b m = some (r.get i.channel i.field) := by
  rw [decodeFunction_of_full b m hlen] at h
  rw [valueOf_eq_decodeChannel, ← TelemetryRecord.get_of_complete (Prod.mk.inj h).2]
  cases i.channel <;> rfl

/-- A whole frame carries the numbers of its bytes. -/
theorem Frame.Whole.carries {m : Frame} (h : m.Whole) :
    m.Carries fun i => ((m.read i).getD 0#8).toNat := fun i hi => by
  obtain ⟨y, hy⟩ := h i hi
  exact ⟨y, hy, by simp [hy]⟩

/-- Past the length check the pseudocode gives a record of a whole frame. -/
theorem Frame.Whole.exists_record {m : Frame} (h : m.Whole) (b : Build) {len : Nat} (hlen : 40 ≤ len) :
    ∃ r, decodeFunction b m len = (.ok, some r) :=
  ⟨_, recordFromFortyBytes b m len _ hlen h.carries⟩

/-- The pseudocode reads forty lanes, and of LEN the outcome of the length check only (R22, R83). -/
theorem decodeFunction_congr (b : Build) {m m' : Frame} {len len' : Nat}
    (hlanes : ∀ o, o < 40 → m.read o = m'.read o) (hlen : 40 ≤ len ↔ 40 ≤ len') :
    decodeFunction b m len = decodeFunction b m' len' := by
  have hbody : ∀ base, base + 20 ≤ 40 → decodeChannel b m base = decodeChannel b m' base :=
    fun base hbase => decodeChannel_congr b fun o ho => hlanes (base + o) (by omega)
  have hshort : len < Config.frameBytes ↔ len' < Config.frameBytes := by
    rw [← Nat.not_le, ← Nat.not_le, hlen]
  simp only [decodeFunction, hshort, hbody Channel.ch1.base (by decide), hbody Channel.ch2.base (by decide)]

/-! ### A transaction in progress -/

/-- Different operations have different codes. -/
theorem encode_injective : Function.Injective encode := fun i _ h =>
  Except.ok.inj ((decode_encode i).symm.trans (decode_eq_ok_iff.2 h.symm))

/-- A transaction that is on its way to the record `r`, whatever state the run began in. -/
structure State.Evaluates (s : State) (r : TelemetryRecord FieldValue) : Prop where
  /-- The length check has passed (R81). -/
  full : 40 ≤ s.len
  /-- The record is the one of R80's pseudocode for the inputs. -/
  record : decodeFunction s.build s.frame s.len = (.ok, some r)
  /-- No reserved code stands among those of the transaction (R66). -/
  codes : ∀ sel ∈ s.todo, ∃ i, decode sel = .ok i
  /-- A field has its value in `r`, or its operation still stands to be evaluated. -/
  due : ∀ i : Instr, encode i ∈ s.todo ∨
    s.out.get i.channel i.field = some (r.get i.channel i.field)

/-- Each operation writes its field of the record. -/
theorem State.Evaluates.exec {s : State} {r : TelemetryRecord FieldValue} (h : s.Evaluates r) (i : Instr) :
    exec i s = .next (s.writeOut i.channel i.field (r.get i.channel i.field)) :=
  exec_of_value h.full (valueOf_of_decodeFunction h.full h.record i)

/-- Evaluating the operation of the first code leaves the transaction on its way. -/
theorem State.Evaluates.writeOut {s : State} {r : TelemetryRecord FieldValue} {i : Instr} {rest : List Sel}
    (h : s.Evaluates r) (htodo : s.todo = encode i :: rest) :
    State.Evaluates
      { s.writeOut i.channel i.field (r.get i.channel i.field) with todo := rest } r where
  full := h.full
  record := h.record
  codes := fun sel hmem => h.codes sel (htodo ▸ List.mem_cons_of_mem _ hmem)
  due := fun j => by
    by_cases hj : j = i
    · simp [hj]
    · refine (h.due j).imp (fun hmem => ?_) fun hget => ?_
      · rw [htodo] at hmem
        exact (List.mem_cons.1 hmem).resolve_left (encode_injective.ne hj)
      · exact (State.writeOut_get_other _ (Instr.channel_field_ne hj)).trans hget

/-- With no code left every field is written. -/
theorem State.Evaluates.complete {s : State} {r : TelemetryRecord FieldValue} (h : s.Evaluates r)
    (htodo : s.todo = []) : s.out.complete = some r := by
  refine TelemetryRecord.complete_eq_some fun ch f => ?_
  obtain ⟨i, rfl, rfl⟩ := exists_instr_of_channel_field ch f
  exact (h.due i).resolve_left (by simp [htodo])

/-- One step an operation, a transaction in progress ends with STATUS OK and its record, and nothing else
changes. By induction on the codes after the first. -/
theorem State.Evaluates.run {s : State} {r : TelemetryRecord FieldValue} {sel : Sel} {rest : List Sel}
    (h : s.Evaluates r) (htodo : s.todo = sel :: rest) :
    Host.Core.run core (rest.length + 1) s = .next ({ s with
      status := some .ok, record := some r, out := .unwritten, todo := [] } : State) := by
  induction rest generalizing s sel with
  | nil =>
    obtain ⟨i, hd⟩ := h.codes sel (by simp [htodo])
    obtain rfl := decode_eq_ok_iff.1 hd
    obtain ⟨-, -, hlast, -⟩ := stepRunsDecodedOperation s _ _ i htodo hd
    rw [run_of_step (hlast _ r (h.exec i) rfl ((h.writeOut htodo).complete rfl))]
    rfl
  | cons next rest ih =>
    obtain ⟨i, hd⟩ := h.codes sel (by simp [htodo])
    obtain rfl := decode_eq_ok_iff.1 hd
    obtain ⟨-, hmore, -, -⟩ := stepRunsDecodedOperation s _ _ i htodo hd
    rw [run_of_step (hmore _ (h.exec i) (by simp))]
    exact ih (h.writeOut htodo) rfl

/-! ### The run -/

/-- A DECODE has its transaction on the way as soon as it has started. -/
theorem State.Evaluates.of_start {s : State} {r : TelemetryRecord FieldValue} (rest : List HostCmd)
    (hlen : 40 ≤ s.len) (h : decodeFunction s.build s.frame s.len = (.ok, some r)) :
    State.Evaluates { s with
      script := rest, status := none, record := none, out := .unwritten, todo := selectCodes } r where
  full := hlen
  record := h
  codes := fun _ => exists_decode_of_mem_selectCodes
  due := fun i => .inl (encode_mem_selectCodes i)

/-- Settles O28: on a whole frame the start puts the transaction on its way to the pseudocode's record, and
fourteen more steps evaluate it; a short buffer ends in the step that starts it. -/
theorem decodeRunComputesTheRecord : Obligations.DecodeRunComputesTheRecord := by
  refine fun s rest htodo hscript => ⟨fun hlen hwhole => ?_, fun hlen => ⟨if_pos hlen, ?_⟩⟩
  · obtain ⟨r, hr⟩ := hwhole.exists_record s.build hlen
    refine ⟨r, hr, ?_⟩
    rw [run_of_step (step_of_decode_full htodo hscript hlen), htodo]
    exact (State.Evaluates.of_start rest hlen hr).run rfl
  · exact run_of_step (step_of_decode_short htodo hscript hlen) 0

/-- Settles O30: both runs end with what the pseudocode gives, which depends on the common inputs only. -/
theorem decodeForgetsHistory : Obligations.DecodeForgetsHistory := by
  intro s t rest rest' hs ht hscript hscript' hbuild hlanes hlen hwhole
  obtain ⟨hfull, hshort⟩ := decodeRunComputesTheRecord s rest hs hscript
  obtain ⟨hfull', hshort'⟩ := decodeRunComputesTheRecord t rest' ht hscript'
  rcases Nat.lt_or_ge s.len 40 with hl | hl
  · obtain ⟨-, hrun⟩ := hshort hl
    obtain ⟨-, hrun'⟩ := hshort' (by omega)
    exact ⟨1, _, _, hrun, hrun', hs, ht, rfl, rfl, by simp, rfl, rfl⟩
  · have hwhole' : t.frame.Whole := fun o ho => hlanes o ho ▸ hwhole hl o ho
    obtain ⟨r, hr, hrun⟩ := hfull hl (hwhole hl)
    obtain ⟨r', hr', hrun'⟩ := hfull' (hlen.1 hl) hwhole'
    have hsame : some r = some r' := by
      rw [decodeFunction_congr s.build hlanes hlen, hbuild, hr'] at hr
      exact (Prod.mk.inj hr).2.symm
    exact ⟨15, _, _, hrun, hrun', hs, ht, rfl, rfl, by simp, rfl, hsame⟩

/-- While a transaction runs the frame is whole: the length check has passed, so the delivered buffer drives
all lanes (R22, R81). -/
theorem State.Inv.whole {s : State} (h : s.Inv) (hrun : s.todo ≠ []) : s.frame.Whole := fun i hi => by
  have hlen : Config.frameBytes ≤ s.len := s.full_iff.1 (h.checked hrun)
  refine Frame.read_isSome ?_
  rwa [h.frame_presented, Nat.min_eq_right hlen, List.mem_range]

/-- The invariant of runs puts a running transaction on its way to the pseudocode's record: a written field
holds its rule's value. -/
theorem State.Inv.evaluates {s : State} {r : TelemetryRecord FieldValue} (h : s.Inv) (hrun : s.todo ≠ [])
    (hr : decodeFunction s.build s.frame s.len = (.ok, some r)) : s.Evaluates r where
  full := s.full_iff.1 (h.checked hrun)
  record := hr
  codes := h.codes
  due := fun i => (h.due hrun i).imp_right fun hsome => by
    obtain ⟨v, hv⟩ := Option.isSome_iff_exists.1 hsome
    rw [hv, ← h.right i v hv, valueOf_of_decodeFunction (s.full_iff.1 (h.checked hrun)) hr i]

/-- Settles O31: the invariant puts the running transaction on its way, and each step evaluates one of its
operations. -/
theorem everyDecodeCompletes : Obligations.EveryDecodeCompletes := by
  intro s h hrun
  obtain ⟨r, hr⟩ := (h.whole hrun).exists_record s.build (s.full_iff.1 (h.checked hrun))
  obtain ⟨sel, rest, htodo⟩ := List.exists_cons_of_ne_nil hrun
  refine ⟨_, r, ?_, hr, rfl⟩
  rw [htodo]
  exact (h.evaluates hrun hr).run htodo

end Sys2Proof.Machine
end

section
/-! Sign and scale (R102, R103): the sign modes on the two defined sign values, and the rational that a scaled
field stands for. -/

namespace Sys2Proof.Machine

/-! ### Sign -/

/-- A clear sign register keeps the magnitude in every mode (R102). -/
@[simp] theorem applySign_zero (mode : SignMode) (m : Word) : applySign mode m 0#16 = m.toNat := by
  cases mode <;> simp [applySign]

/-- A sign register of 1 negates the magnitude in every mode (R102). -/
@[simp] theorem applySign_one (mode : SignMode) (m : Word) : applySign mode m 1#16 = -(m.toNat : Int) := by
  cases mode <;> simp [applySign]

/-- SOURCE_FORMULA takes twice the product of sign and magnitude away from the magnitude (R102). -/
theorem applySign_sourceFormula (m s : Word) :
    applySign .sourceFormula m s = (m.toNat : Int) - 2 * (s.toNat : Int) * (m.toNat : Int) := by
  simp only [applySign]; ring

/-- Settles O9, mode by mode; the ranges are those of the output numerators. -/
theorem applySignModes : Obligations.ApplySignModes := by
  intro m s
  refine ⟨?zeroTest_keeps, ?zeroTest_negates, ?bit0_keeps, ?bit0_negates, rfl, applySign_sourceFormula m s,
    ?agree, fun _ hmode => applySign_range hmode m s, applySign_sourceFormula_range m s⟩
  case zeroTest_keeps => rintro rfl; exact applySign_zero _ m
  case zeroTest_negates => exact fun hs => if_neg hs
  case bit0_keeps => exact fun hbit => if_neg (Bool.eq_false_iff.1 hbit)
  case bit0_negates => exact fun hbit => if_pos hbit
  case agree =>
    refine fun mode => ⟨?_, ?_⟩
    · rintro rfl; exact applySign_zero mode m
    · rintro rfl; exact applySign_one mode m

/-! ### Scale -/

/-- Under EXACT a scaled field stands for the rational whose product with the denominator is the numerator:
nothing is rounded (R103). -/
theorem exists_value_scale_exact (n : Int) {d : Nat} (hd : d ≠ 0) :
    ∃ q : Rat, (scale .exact n d).value = some q ∧ q * (d : Rat) = (n : Rat) :=
  ⟨n / d, FieldValue.value_exact hd, div_mul_cancel₀ _ (Nat.cast_ne_zero.2 hd)⟩

/-- Under EXACT a power of ten as the denominator leaves at most as many fractional digits as its exponent
(R103). -/
theorem scale_exact_fractional_digits (n : Int) (k : Nat) :
    ∃ q : Rat, (scale .exact n (10 ^ k)).value = some q ∧ ∃ z : Int, q * 10 ^ k = (z : Rat) := by
  obtain ⟨q, hq, hmul⟩ := exists_value_scale_exact n (pow_ne_zero k (by decide : 10 ≠ 0))
  exact ⟨q, hq, n, by simpa using hmul⟩

/-- Settles O10: the denominators are nonzero, and they are the powers 0, 2 and 3 of ten. -/
theorem scaleIsExactDivision : Obligations.ScaleIsExactDivision := by
  refine ⟨fun _ _ => ⟨rfl, rfl⟩, fun n d hd => exists_value_scale_exact n (by omega), fun n => ?_,
    fun n => scale_exact_fractional_digits n 2, fun n => scale_exact_fractional_digits n 3⟩
  simpa using scale_exact_fractional_digits n 0

end Sys2Proof.Machine
end

section
/-! The field rules of 42_fields.md (R120 to R134, R174): an operation depends on its own half of the frame, and
each format's rule follows from the operation's row of the schema. -/

namespace Sys2Proof.Machine

/-! ### The channel's half of the frame -/

/-- An operation's value depends on the twenty lanes of its own channel only (R46, R134). -/
theorem valueOf_congr (i : Instr) (b : Build) {m m' : Frame}
    (h : ∀ o, i.channel.base ≤ o → o < i.channel.base + 20 → m.read o = m'.read o) :
    valueOf i b m = valueOf i b m' := by
  have hbody : decodeChannel b m i.channel.base = decodeChannel b m' i.channel.base :=
    decodeChannel_congr b fun o ho => h _ (Nat.le_add_right _ o) (Nat.add_lt_add_left ho _)
  rw [valueOf_eq_decodeChannel, valueOf_eq_decodeChannel, hbody]

/-- Settles O23: the value written from the one state is that of the other, so the operation runs there too. -/
theorem channelsAreIndependent : Obligations.ChannelsAreIndependent := by
  intro i s t s' hbuild hs ht hlanes hexec
  obtain ⟨hshort, -⟩ | ⟨-, v, hv, rfl⟩ := exec_cases hexec
  · omega
  · have hvt : valueOf i t.build t.frame = some v := by
      rw [← hbuild, ← valueOf_congr i s.build hlanes, hv]
    exact ⟨_, exec_of_value ht hvt, by simp⟩

/-! ### The rule of each format -/

/-- The numbers of format U16S: the field is its register's, which is at most 65535 (R62, R100). -/
theorem valU16S_of_read {m : Frame} {off : Nat} {hi lo : Byte} (b : Build) (den : Nat)
    (hhi : m.read off = some hi) (hlo : m.read (off + 1) = some lo) :
    hi.toNat * 256 + lo.toNat ≤ 65535 ∧
      valU16S b m off den = some (scale b.outRepr (hi.toNat * 256 + lo.toNat : Nat) den) := by
  obtain ⟨-, w, hw, hnum, -⟩ := u16IsBigEndian m off hi lo hhi hlo
  rw [← hnum]
  exact ⟨Nat.le_of_lt_succ w.isLt, by simp only [valU16S, hw]⟩

/-- The numbers of format U32LW: the field is that of its two registers, the low word first (R62, R101). -/
theorem valU32LW_of_read {m : Frame} {off : Nat} {b0 b1 b2 b3 : Byte} (b : Build) (den : Nat)
    (h0 : m.read off = some b0) (h1 : m.read (off + 1) = some b1)
    (h2 : m.read (off + 2) = some b2) (h3 : m.read (off + 3) = some b3) :
    (b2.toNat * 256 + b3.toNat) * 65536 + (b0.toNat * 256 + b1.toNat) ≤ 4294967295 ∧
      valU32LW b m off den = some (scale b.outRepr
        ((b2.toNat * 256 + b3.toNat) * 65536 + (b0.toNat * 256 + b1.toNat) : Nat) den) := by
  obtain ⟨v, hv, hnum, -⟩ := u32IsLowWordFirst m off b0 b1 b2 b3 h0 h1 h2 h3
  rw [← hnum]
  exact ⟨Nat.le_of_lt_succ v.isLt, by simp only [valU32LW, hv]⟩

/-- The numbers of format SM16: the field is the signed magnitude of its two registers, within the
magnitude's range but under SOURCE_FORMULA (R62, R102). -/
theorem valSM16_of_read {m : Frame} {mag sign : Nat} {m1 m0 s1 s0 : Byte} (b : Build) (den : Nat)
    (hm1 : m.read mag = some m1) (hm0 : m.read (mag + 1) = some m0)
    (hs1 : m.read sign = some s1) (hs0 : m.read (sign + 1) = some s0) :
    let n := signedNumerator b.signMode (m1.toNat * 256 + m0.toNat) (s1.toNat * 256 + s0.toNat)
    (b.signMode ≠ .sourceFormula → -65535 ≤ n ∧ n ≤ 65535) ∧
      valSM16 b m mag sign den = some (scale b.outRepr n den) := by
  obtain ⟨-, w, hw, hmag, -⟩ := u16IsBigEndian m mag m1 m0 hm1 hm0
  obtain ⟨-, s, hs, hsign, -⟩ := u16IsBigEndian m sign s1 s0 hs1 hs0
  rw [← hmag, ← hsign, ← applySign_eq_signedNumerator]
  exact ⟨fun hmode => applySign_range hmode w s, by simp only [valSM16, hw, hs]⟩

/-- An operation of format U16S obeys the rule with its own code, schema and output field. -/
theorem u16SRule_of_format {i : Instr} {off : Nat} (h : i.schema.format = .u16s off) :
    U16SRule i (encode i) i.schema off i.schema.den fun r v => r.set i.channel i.field (some v) := by
  refine ⟨decode_encode i, rfl, rfl, fun s hi lo hlen hhi hlo => ?_, fun _ => exec_of_short i⟩
  obtain ⟨hrange, hval⟩ := valU16S_of_read s.build i.schema.den hhi hlo
  exact ⟨hrange, exec_of_value hlen (by simp only [valueOf, h, hval])⟩

/-- An operation of format U32LW obeys the rule with its own code, schema and output field. -/
theorem u32LWRule_of_format {i : Instr} {off : Nat} (h : i.schema.format = .u32lw off) :
    U32LWRule i (encode i) i.schema off i.schema.den fun r v => r.set i.channel i.field (some v) := by
  refine ⟨decode_encode i, rfl, rfl, fun s b0 b1 b2 b3 hlen h0 h1 h2 h3 => ?_, fun _ => exec_of_short i⟩
  obtain ⟨hrange, hval⟩ := valU32LW_of_read s.build i.schema.den h0 h1 h2 h3
  exact ⟨hrange, exec_of_value hlen (by simp only [valueOf, h, hval])⟩

/-- An operation of format SM16 obeys the rule with its own code, schema and output field. -/
theorem sm16Rule_of_format {i : Instr} {mag sign : Nat} (h : i.schema.format = .sm16 mag sign) :
    SM16Rule i (encode i) i.schema mag sign i.schema.den fun r v => r.set i.channel i.field (some v) := by
  refine ⟨decode_encode i, rfl, rfl, fun s m1 m0 s1 s0 hlen hm1 hm0 hs1 hs0 => ?_, fun _ => exec_of_short i⟩
  obtain ⟨hrange, hval⟩ := valSM16_of_read s.build i.schema.den hm1 hm0 hs1 hs0
  exact ⟨hrange, exec_of_value hlen (by simp only [valueOf, h, hval])⟩

/-! ### The fourteen operations

Each row of the schema computes to the constants and the output field that its rule writes out. -/

/-- Settles O13: both voltages are of format U16S (R120, R127). -/
theorem voltageRules : Obligations.VoltageRules :=
  ⟨u16SRule_of_format rfl, u16SRule_of_format rfl⟩

/-- Settles O14: both currents are of format SM16 (R121, R128). -/
theorem currentRules : Obligations.CurrentRules :=
  ⟨sm16Rule_of_format rfl, sm16Rule_of_format rfl⟩

/-- Settles O15: both active powers are of format SM16, with the sign register of the current (R122, R129). -/
theorem powerRules : Obligations.PowerRules :=
  ⟨sm16Rule_of_format rfl, sm16Rule_of_format rfl⟩

/-- Settles O16: both positive energies are of format U32LW (R123, R130). -/
theorem positiveEnergyRules : Obligations.PositiveEnergyRules :=
  ⟨u32LWRule_of_format rfl, u32LWRule_of_format rfl⟩

/-- Settles O17: both negative energies are of format U32LW (R124, R131). -/
theorem negativeEnergyRules : Obligations.NegativeEnergyRules :=
  ⟨u32LWRule_of_format rfl, u32LWRule_of_format rfl⟩

/-- Settles O18: both power factors are of format U16S (R125, R132). -/
theorem powerFactorRules : Obligations.PowerFactorRules :=
  ⟨u16SRule_of_format rfl, u16SRule_of_format rfl⟩

/-- Settles O19: both frequencies are of format U16S (R126, R133). -/
theorem frequencyRules : Obligations.FrequencyRules :=
  ⟨u16SRule_of_format rfl, u16SRule_of_format rfl⟩

end Sys2Proof.Machine
end

section
/-! The block's one error (R150, R151, R154): only the length check of a DECODE makes STATUS say TOO_SHORT, and
no step of a run stops. -/

namespace Sys2Proof.Machine

/-! ### What makes STATUS say TOO_SHORT -/

/-- A field operation keeps STATUS (R9). -/
theorem exec_status {i : Instr} {s t : State} (h : exec i s = .next t) : t.status = s.status := by
  obtain ⟨-, -, -, hstatus, -⟩ := fieldOperationFrame i s t h
  exact hstatus

/-- The end of a transaction gives out OK or, without a complete record, no STATUS (R82). -/
theorem State.commit_status_ne_tooShort (s : State) : s.commit.status ≠ some .tooShort := by
  cases hc : s.out.complete with
  | some r => simp [State.commit_of_complete hc]
  | none => simp [State.commit_of_incomplete hc]

/-- Going on with a transaction never makes STATUS say TOO_SHORT. -/
theorem State.status_eq_tooShort_of_advance {s : State} (h : s.advance.status = some .tooShort) :
    s.status = some .tooShort := by
  unfold State.advance at h
  split at h
  · exact h
  · exact absurd h s.commit_status_ne_tooShort
  · exact h

/-- The start of a DECODE makes STATUS say TOO_SHORT only for a short buffer (R81). -/
theorem State.len_lt_of_startDecode_tooShort {s : State} (h : s.startDecode.status = some .tooShort) :
    s.len < 40 := by
  by_contra hlen
  simp [State.startDecode_of_full (Nat.not_lt.1 hlen)] at h

/-- Among the host's actions only a DECODE of a short buffer makes STATUS say TOO_SHORT (R150). -/
theorem State.status_eq_tooShort_of_hostAction {s : State} {cmd : HostCmd}
    (h : (s.hostAction cmd).status = some .tooShort) :
    s.status = some .tooShort ∨ (cmd = .decode ∧ s.len < 40) := by
  cases cmd with
  | decode => exact .inr ⟨rfl, State.len_lt_of_startDecode_tooShort h⟩
  | _ => exact .inl h

/-- Settles O27: the short DECODE's step is that of its start, and of what a step can do, neither a field
operation, nor the end of a transaction, nor another action of the host makes STATUS say TOO_SHORT. -/
theorem shortDecodeReportsTooShort : Obligations.ShortDecodeReportsTooShort := by
  refine ⟨rfl, fun s rest => step_of_decode_short, fun s t hstep hs ht => ?_⟩
  obtain ⟨_, _, _, u, -, -, hu, rfl⟩ | ⟨cmd, rest, htodo, hscript, rfl⟩ | ⟨-, -, rfl⟩ := step_cases hstep
  · exact absurd (exec_status hu ▸ State.status_eq_tooShort_of_advance ht) hs
  · obtain hold | ⟨rfl, hlen⟩ := State.status_eq_tooShort_of_hostAction ht
    · exact absurd hold hs
    · exact ⟨htodo, hlen, rest, hscript⟩
  · exact absurd ht hs

/-! ### No step of a run stops -/

/-- The step of a transaction on its way to a record answers a next state: its first code is not reserved, and
the operation's lanes carry bytes. -/
theorem State.Evaluates.exists_step {s : State} {r : TelemetryRecord FieldValue} {sel : Sel} {rest : List Sel}
    (h : s.Evaluates r) (htodo : s.todo = sel :: rest) : ∃ t, step s = .next t := by
  obtain ⟨i, hd⟩ := h.codes sel (by simp [htodo])
  exact ⟨_, step_of_field htodo hd (h.exec i)⟩

/-- Settles O41, by what the step runs: with no transaction running the host's action or none, which cannot
stop; else an operation of a transaction that the invariant puts on its way to a record. -/
theorem invariantStatesNeverStop : Obligations.InvariantStatesNeverStop := by
  intro s h
  cases htodo : s.todo with
  | nil =>
    cases hscript : s.script with
    | nil => exact ⟨s, step_of_idle htodo hscript⟩
    | cons cmd rest => exact ⟨_, step_of_host htodo hscript⟩
  | cons sel rest =>
    have hrun : s.todo ≠ [] := by simp [htodo]
    obtain ⟨r, hr⟩ := (h.whole hrun).exists_record s.build (s.full_iff.1 (h.checked hrun))
    exact (h.evaluates hrun hr).exists_step htodo

end Sys2Proof.Machine
end

section
/-! Reset and the outputs between DECODEs (R170, R171, R175): the invariant holds at reset, no output has a value
there, and STATUS and REC keep the result of the last completed DECODE until the next one starts. -/

namespace Sys2Proof.Machine

/-! ### Reset -/

/-- Settles O40: at reset no transaction runs and no lane is presented. -/
theorem resetMeetsTheInvariant : Obligations.ResetMeetsTheInvariant :=
  .of_idle rfl rfl rfl rfl (by decide)

/-- Settles O42: a READ's answer depends on STATUS and REC, which a script does not change. -/
theorem resetHoldsNoOutputs : Obligations.ResetHoldsNoOutputs :=
  ⟨rfl, rfl, rfl, fun _ _ h7 hF =>
    step_of_read rfl rfl (State.readPort_of_no_record (not_or.2 ⟨h7, hF⟩) (.inr rfl))⟩

/-! ### The outputs between DECODEs -/

/-- Every action of the host but DECODE keeps the outputs. -/
theorem State.hostAction_outputs {s : State} {cmd : HostCmd} (h : cmd ≠ .decode) :
    (s.hostAction cmd).status = s.status ∧ (s.hostAction cmd).record = s.record := by
  cases cmd with
  | decode => exact absurd rfl h
  | _ => exact ⟨rfl, rfl⟩

/-- With no transaction running, a step that starts no DECODE keeps the outputs (R175). -/
theorem step_keeps_outputs {s t : State} (hstep : step s = .next t) (htodo : s.todo = [])
    (hscript : ∀ rest, s.script ≠ .decode :: rest) : t.status = s.status ∧ t.record = s.record := by
  obtain ⟨_, _, _, _, hrun, -⟩ | ⟨cmd, rest, -, hcmd, rfl⟩ | ⟨-, -, rfl⟩ := step_cases hstep
  · simp [htodo] at hrun
  · exact State.hostAction_outputs (s := s.nextStatement rest) fun hd => hscript rest (hd ▸ hcmd)
  · exact ⟨rfl, rfl⟩

/-- Settles O37: the first clause from what a step can do, the second because the step keeps the invariant, which
says that a running transaction leaves the outputs without a value. -/
theorem outputsHeldBetweenDecodes : Obligations.OutputsHeldBetweenDecodes := fun s t hstep =>
  ⟨step_keeps_outputs hstep, fun h => (stepKeepsTheInvariant s t h hstep).silent⟩

end Sys2Proof.Machine
end
